-- ==== Sys2Proof/Word.lean ====
section
/-! DEFINITION. The machine's two word types (00_scope.md sections 5 and 6): 8-bit data, 16-bit addresses. -/

namespace Sys2Proof

/-- A data byte: "data width 8 bits" (00_scope.md section 5). -/
abbrev Byte := BitVec 8

/-- A bus address: "address width 16 bits" (00_scope.md section 5, R70, R81). -/
abbrev Addr := BitVec 16

end Sys2Proof
end

