-- ==== Sys2Proof/Config.lean ====
section
/-! DEFINITION. The constants of 00_scope.md section 5 and the model's free values (log entry 9). The launch
parameters the spec leaves OPEN are data of State (`Machine.Launch`), so that every statement holds for all of them. -/

namespace Sys2Proof.Config

/-- Pixel clocks per scanline (R48, R371): 228. -/
@[simp] abbrev lineClocks : Nat := 228

/-- Hidden clocks at the start of a line (R48, R370): 68. -/
@[simp] abbrev hblankClocks : Nat := 68

/-- Lines of the visible band (R370, R373): 192. -/
@[simp] abbrev visibleLines : Nat := 192

/-- Lines per frame (R372, decision D20): 262. -/
@[simp] abbrev totalLines : Nat := 262

/-- Pixel ticks per CPU cycle (R388): 3. -/
@[simp] abbrev pixelsPerCycle : Nat := 3

/-- Lead of a player's position commit (R389): 5. -/
@[simp] abbrev playerLead : Nat := 5

/-- Lead of a missile's or the ball's position commit (R389): 4. -/
@[simp] abbrev missileBallLead : Nat := 4

/-- The page the stack pointer addresses (R23, decision D4). -/
@[simp] abbrev stackPage : Addr := 0x0100#16

/-- The reset vector (R96, R481, decision D5). -/
@[simp] abbrev resetVector : Addr := 0xFFFC#16

/-- The BRK vector (R96, R293, decision D5). -/
@[simp] abbrev brkVector : Addr := 0xFFFE#16

/-- The two bank-select offsets of the cartridge window (R103, decision D15): bank 0. -/
@[simp] abbrev hotSpot0 : BitVec 12 := 0xFF8#12

/-- The bank-select offset of bank 1 (R103). -/
@[simp] abbrev hotSpot1 : BitVec 12 := 0xFF9#12

/-- FREE VALUE (log entry 9): the result of a decimal ADC or SBC whose operands hold a digit above 9 ("a model treats
the result for such operands as any value", R222, R224, U4). Applied to `State.freeCount`, so that each use is fresh. -/
opaque freeByte : Nat → Byte

/-- FREE VALUE (log entry 9): the carry of the same operations. -/
opaque freeCarry : Nat → Bool

end Sys2Proof.Config
end

