-- ==== Sys2Proof/Syntax.lean ====
section
/-! DEFINITION. The instruction set as a type: one constructor per instruction row of spec/opcode_table.json (151 rows,
R137, R138) and `illegal`, which stands for the 105 rows named ILLEGAL (R139). Operand bytes are assembled as R135 says. -/

namespace Sys2Proof

/-- A memory or immediate operand: the nine addressing modes of R136 that name a byte, each with its assembled operand
(R135). Implied, accumulator, relative and absolute-indirect are constructors of `Instr` alone. -/
inductive Operand where
  | imm  (v : Byte)   -- R165
  | zp   (b : Byte)   -- R166
  | zpx  (b : Byte)   -- R167
  | zpy  (b : Byte)   -- R168
  | abs  (a : Addr)   -- R169
  | absx (a : Addr)   -- R170
  | absy (a : Addr)   -- R171
  | indx (b : Byte)   -- R173
  | indy (b : Byte)   -- R174
  deriving DecidableEq, Repr

/-- The instructions. A comment gives the opcode byte and the rule of the row. -/
inductive Instr where
  | ldaImm (v : Byte)     -- 0xA9 LDA #v R201
  | ldaZp (b : Byte)      -- 0xA5 LDA b R201
  | ldaZpX (b : Byte)     -- 0xB5 LDA b,X R201
  | ldaAbs (a : Addr)     -- 0xAD LDA a R201
  | ldaAbsX (a : Addr)    -- 0xBD LDA a,X R201
  | ldaAbsY (a : Addr)    -- 0xB9 LDA a,Y R201
  | ldaIndX (b : Byte)    -- 0xA1 LDA (b,X) R201
  | ldaIndY (b : Byte)    -- 0xB1 LDA (b),Y R201
  | ldxImm (v : Byte)     -- 0xA2 LDX #v R202
  | ldxZp (b : Byte)      -- 0xA6 LDX b R202
  | ldxZpY (b : Byte)     -- 0xB6 LDX b,Y R202
  | ldxAbs (a : Addr)     -- 0xAE LDX a R202
  | ldxAbsY (a : Addr)    -- 0xBE LDX a,Y R202
  | ldyImm (v : Byte)     -- 0xA0 LDY #v R203
  | ldyZp (b : Byte)      -- 0xA4 LDY b R203
  | ldyZpX (b : Byte)     -- 0xB4 LDY b,X R203
  | ldyAbs (a : Addr)     -- 0xAC LDY a R203
  | ldyAbsX (a : Addr)    -- 0xBC LDY a,X R203
  | staZp (b : Byte)      -- 0x85 STA b R204
  | staZpX (b : Byte)     -- 0x95 STA b,X R204
  | staAbs (a : Addr)     -- 0x8D STA a R204
  | staAbsX (a : Addr)    -- 0x9D STA a,X R204
  | staAbsY (a : Addr)    -- 0x99 STA a,Y R204
  | staIndX (b : Byte)    -- 0x81 STA (b,X) R204
  | staIndY (b : Byte)    -- 0x91 STA (b),Y R204
  | stxZp (b : Byte)      -- 0x86 STX b R205
  | stxZpY (b : Byte)     -- 0x96 STX b,Y R205
  | stxAbs (a : Addr)     -- 0x8E STX a R205
  | styZp (b : Byte)      -- 0x84 STY b R206
  | styZpX (b : Byte)     -- 0x94 STY b,X R206
  | styAbs (a : Addr)     -- 0x8C STY a R206
  | tax                   -- 0xAA TAX R207
  | tay                   -- 0xA8 TAY R208
  | txa                   -- 0x8A TXA R209
  | tya                   -- 0x98 TYA R210
  | tsx                   -- 0xBA TSX R211
  | txs                   -- 0x9A TXS R212
  | adcImm (v : Byte)     -- 0x69 ADC #v R221
  | adcZp (b : Byte)      -- 0x65 ADC b R221
  | adcZpX (b : Byte)     -- 0x75 ADC b,X R221
  | adcAbs (a : Addr)     -- 0x6D ADC a R221
  | adcAbsX (a : Addr)    -- 0x7D ADC a,X R221
  | adcAbsY (a : Addr)    -- 0x79 ADC a,Y R221
  | adcIndX (b : Byte)    -- 0x61 ADC (b,X) R221
  | adcIndY (b : Byte)    -- 0x71 ADC (b),Y R221
  | sbcImm (v : Byte)     -- 0xE9 SBC #v R223
  | sbcZp (b : Byte)      -- 0xE5 SBC b R223
  | sbcZpX (b : Byte)     -- 0xF5 SBC b,X R223
  | sbcAbs (a : Addr)     -- 0xED SBC a R223
  | sbcAbsX (a : Addr)    -- 0xFD SBC a,X R223
  | sbcAbsY (a : Addr)    -- 0xF9 SBC a,Y R223
  | sbcIndX (b : Byte)    -- 0xE1 SBC (b,X) R223
  | sbcIndY (b : Byte)    -- 0xF1 SBC (b),Y R223
  | cmpImm (v : Byte)     -- 0xC9 CMP #v R226
  | cmpZp (b : Byte)      -- 0xC5 CMP b R226
  | cmpZpX (b : Byte)     -- 0xD5 CMP b,X R226
  | cmpAbs (a : Addr)     -- 0xCD CMP a R226
  | cmpAbsX (a : Addr)    -- 0xDD CMP a,X R226
  | cmpAbsY (a : Addr)    -- 0xD9 CMP a,Y R226
  | cmpIndX (b : Byte)    -- 0xC1 CMP (b,X) R226
  | cmpIndY (b : Byte)    -- 0xD1 CMP (b),Y R226
  | cpxImm (v : Byte)     -- 0xE0 CPX #v R227
  | cpxZp (b : Byte)      -- 0xE4 CPX b R227
  | cpxAbs (a : Addr)     -- 0xEC CPX a R227
  | cpyImm (v : Byte)     -- 0xC0 CPY #v R228
  | cpyZp (b : Byte)      -- 0xC4 CPY b R228
  | cpyAbs (a : Addr)     -- 0xCC CPY a R228
  | incZp (b : Byte)      -- 0xE6 INC b R229
  | incZpX (b : Byte)     -- 0xF6 INC b,X R229
  | incAbs (a : Addr)     -- 0xEE INC a R229
  | incAbsX (a : Addr)    -- 0xFE INC a,X R229
  | decZp (b : Byte)      -- 0xC6 DEC b R230
  | decZpX (b : Byte)     -- 0xD6 DEC b,X R230
  | decAbs (a : Addr)     -- 0xCE DEC a R230
  | decAbsX (a : Addr)    -- 0xDE DEC a,X R230
  | inx                   -- 0xE8 INX R231
  | iny                   -- 0xC8 INY R232
  | dex                   -- 0xCA DEX R233
  | dey                   -- 0x88 DEY R234
  | andImm (v : Byte)     -- 0x29 AND #v R241
  | andZp (b : Byte)      -- 0x25 AND b R241
  | andZpX (b : Byte)     -- 0x35 AND b,X R241
  | andAbs (a : Addr)     -- 0x2D AND a R241
  | andAbsX (a : Addr)    -- 0x3D AND a,X R241
  | andAbsY (a : Addr)    -- 0x39 AND a,Y R241
  | andIndX (b : Byte)    -- 0x21 AND (b,X) R241
  | andIndY (b : Byte)    -- 0x31 AND (b),Y R241
  | oraImm (v : Byte)     -- 0x09 ORA #v R242
  | oraZp (b : Byte)      -- 0x05 ORA b R242
  | oraZpX (b : Byte)     -- 0x15 ORA b,X R242
  | oraAbs (a : Addr)     -- 0x0D ORA a R242
  | oraAbsX (a : Addr)    -- 0x1D ORA a,X R242
  | oraAbsY (a : Addr)    -- 0x19 ORA a,Y R242
  | oraIndX (b : Byte)    -- 0x01 ORA (b,X) R242
  | oraIndY (b : Byte)    -- 0x11 ORA (b),Y R242
  | eorImm (v : Byte)     -- 0x49 EOR #v R243
  | eorZp (b : Byte)      -- 0x45 EOR b R243
  | eorZpX (b : Byte)     -- 0x55 EOR b,X R243
  | eorAbs (a : Addr)     -- 0x4D EOR a R243
  | eorAbsX (a : Addr)    -- 0x5D EOR a,X R243
  | eorAbsY (a : Addr)    -- 0x59 EOR a,Y R243
  | eorIndX (b : Byte)    -- 0x41 EOR (b,X) R243
  | eorIndY (b : Byte)    -- 0x51 EOR (b),Y R243
  | bitZp (b : Byte)      -- 0x24 BIT b R244
  | bitAbs (a : Addr)     -- 0x2C BIT a R244
  | aslZp (b : Byte)      -- 0x06 ASL b R245
  | aslZpX (b : Byte)     -- 0x16 ASL b,X R245
  | aslAbs (a : Addr)     -- 0x0E ASL a R245
  | aslAbsX (a : Addr)    -- 0x1E ASL a,X R245
  | aslAcc                -- 0x0A ASL A R245
  | lsrZp (b : Byte)      -- 0x46 LSR b R246
  | lsrZpX (b : Byte)     -- 0x56 LSR b,X R246
  | lsrAbs (a : Addr)     -- 0x4E LSR a R246
  | lsrAbsX (a : Addr)    -- 0x5E LSR a,X R246
  | lsrAcc                -- 0x4A LSR A R246
  | rolZp (b : Byte)      -- 0x26 ROL b R247
  | rolZpX (b : Byte)     -- 0x36 ROL b,X R247
  | rolAbs (a : Addr)     -- 0x2E ROL a R247
  | rolAbsX (a : Addr)    -- 0x3E ROL a,X R247
  | rolAcc                -- 0x2A ROL A R247
  | rorZp (b : Byte)      -- 0x66 ROR b R248
  | rorZpX (b : Byte)     -- 0x76 ROR b,X R248
  | rorAbs (a : Addr)     -- 0x6E ROR a R248
  | rorAbsX (a : Addr)    -- 0x7E ROR a,X R248
  | rorAcc                -- 0x6A ROR A R248
  | bcc (d : Byte)        -- 0x90 BCC d R263
  | bcs (d : Byte)        -- 0xB0 BCS d R264
  | beq (d : Byte)        -- 0xF0 BEQ d R265
  | bmi (d : Byte)        -- 0x30 BMI d R266
  | bne (d : Byte)        -- 0xD0 BNE d R267
  | bpl (d : Byte)        -- 0x10 BPL d R268
  | bvc (d : Byte)        -- 0x50 BVC d R269
  | bvs (d : Byte)        -- 0x70 BVS d R270
  | jmpAbs (a : Addr)     -- 0x4C JMP a R271
  | jmpInd (a : Addr)     -- 0x6C JMP (a) R271
  | jsr (a : Addr)        -- 0x20 JSR a R272
  | rts                   -- 0x60 RTS R273
  | pha                   -- 0x48 PHA R281
  | pla                   -- 0x68 PLA R282
  | php                   -- 0x08 PHP R283
  | plp                   -- 0x28 PLP R284
  | clc                   -- 0x18 CLC R285
  | sec                   -- 0x38 SEC R286
  | cli                   -- 0x58 CLI R287
  | sei                   -- 0x78 SEI R288
  | cld                   -- 0xD8 CLD R289
  | sed                   -- 0xF8 SED R290
  | clv                   -- 0xB8 CLV R291
  | nop                   -- 0xEA NOP R292
  | brk                   -- 0x00 BRK R293
  | rti                   -- 0x40 RTI R294
  | illegal (opcode : Byte)-- the 105 rows ILLEGAL, R139
  deriving DecidableEq, Repr

/-- The mnemonics of the table (R138), and `illegal` for its ILLEGAL rows (R139). -/
inductive Mnemonic where
  | lda | ldx | ldy | sta | stx | sty | tax | tay | txa | tya | tsx | txs | adc | sbc
  | cmp | cpx | cpy | inc | dec | inx | iny | dex | dey | and | ora | eor | bit | asl
  | lsr | rol | ror | bcc | bcs | beq | bmi | bne | bpl | bvc | bvs | jmp | jsr | rts
  | pha | pla | php | plp | clc | sec | cli | sei | cld | sed | clv | nop | brk | rti
  | illegal
  deriving DecidableEq, Repr

/-- The mnemonic column of the table. -/
def Instr.mnemonic : Instr → Mnemonic
  | .ldaImm _ => .lda
  | .ldaZp _ => .lda
  | .ldaZpX _ => .lda
  | .ldaAbs _ => .lda
  | .ldaAbsX _ => .lda
  | .ldaAbsY _ => .lda
  | .ldaIndX _ => .lda
  | .ldaIndY _ => .lda
  | .ldxImm _ => .ldx
  | .ldxZp _ => .ldx
  | .ldxZpY _ => .ldx
  | .ldxAbs _ => .ldx
  | .ldxAbsY _ => .ldx
  | .ldyImm _ => .ldy
  | .ldyZp _ => .ldy
  | .ldyZpX _ => .ldy
  | .ldyAbs _ => .ldy
  | .ldyAbsX _ => .ldy
  | .staZp _ => .sta
  | .staZpX _ => .sta
  | .staAbs _ => .sta
  | .staAbsX _ => .sta
  | .staAbsY _ => .sta
  | .staIndX _ => .sta
  | .staIndY _ => .sta
  | .stxZp _ => .stx
  | .stxZpY _ => .stx
  | .stxAbs _ => .stx
  | .styZp _ => .sty
  | .styZpX _ => .sty
  | .styAbs _ => .sty
  | .tax => .tax
  | .tay => .tay
  | .txa => .txa
  | .tya => .tya
  | .tsx => .tsx
  | .txs => .txs
  | .adcImm _ => .adc
  | .adcZp _ => .adc
  | .adcZpX _ => .adc
  | .adcAbs _ => .adc
  | .adcAbsX _ => .adc
  | .adcAbsY _ => .adc
  | .adcIndX _ => .adc
  | .adcIndY _ => .adc
  | .sbcImm _ => .sbc
  | .sbcZp _ => .sbc
  | .sbcZpX _ => .sbc
  | .sbcAbs _ => .sbc
  | .sbcAbsX _ => .sbc
  | .sbcAbsY _ => .sbc
  | .sbcIndX _ => .sbc
  | .sbcIndY _ => .sbc
  | .cmpImm _ => .cmp
  | .cmpZp _ => .cmp
  | .cmpZpX _ => .cmp
  | .cmpAbs _ => .cmp
  | .cmpAbsX _ => .cmp
  | .cmpAbsY _ => .cmp
  | .cmpIndX _ => .cmp
  | .cmpIndY _ => .cmp
  | .cpxImm _ => .cpx
  | .cpxZp _ => .cpx
  | .cpxAbs _ => .cpx
  | .cpyImm _ => .cpy
  | .cpyZp _ => .cpy
  | .cpyAbs _ => .cpy
  | .incZp _ => .inc
  | .incZpX _ => .inc
  | .incAbs _ => .inc
  | .incAbsX _ => .inc
  | .decZp _ => .dec
  | .decZpX _ => .dec
  | .decAbs _ => .dec
  | .decAbsX _ => .dec
  | .inx => .inx
  | .iny => .iny
  | .dex => .dex
  | .dey => .dey
  | .andImm _ => .and
  | .andZp _ => .and
  | .andZpX _ => .and
  | .andAbs _ => .and
  | .andAbsX _ => .and
  | .andAbsY _ => .and
  | .andIndX _ => .and
  | .andIndY _ => .and
  | .oraImm _ => .ora
  | .oraZp _ => .ora
  | .oraZpX _ => .ora
  | .oraAbs _ => .ora
  | .oraAbsX _ => .ora
  | .oraAbsY _ => .ora
  | .oraIndX _ => .ora
  | .oraIndY _ => .ora
  | .eorImm _ => .eor
  | .eorZp _ => .eor
  | .eorZpX _ => .eor
  | .eorAbs _ => .eor
  | .eorAbsX _ => .eor
  | .eorAbsY _ => .eor
  | .eorIndX _ => .eor
  | .eorIndY _ => .eor
  | .bitZp _ => .bit
  | .bitAbs _ => .bit
  | .aslZp _ => .asl
  | .aslZpX _ => .asl
  | .aslAbs _ => .asl
  | .aslAbsX _ => .asl
  | .aslAcc => .asl
  | .lsrZp _ => .lsr
  | .lsrZpX _ => .lsr
  | .lsrAbs _ => .lsr
  | .lsrAbsX _ => .lsr
  | .lsrAcc => .lsr
  | .rolZp _ => .rol
  | .rolZpX _ => .rol
  | .rolAbs _ => .rol
  | .rolAbsX _ => .rol
  | .rolAcc => .rol
  | .rorZp _ => .ror
  | .rorZpX _ => .ror
  | .rorAbs _ => .ror
  | .rorAbsX _ => .ror
  | .rorAcc => .ror
  | .bcc _ => .bcc
  | .bcs _ => .bcs
  | .beq _ => .beq
  | .bmi _ => .bmi
  | .bne _ => .bne
  | .bpl _ => .bpl
  | .bvc _ => .bvc
  | .bvs _ => .bvs
  | .jmpAbs _ => .jmp
  | .jmpInd _ => .jmp
  | .jsr _ => .jsr
  | .rts => .rts
  | .pha => .pha
  | .pla => .pla
  | .php => .php
  | .plp => .plp
  | .clc => .clc
  | .sec => .sec
  | .cli => .cli
  | .sei => .sei
  | .cld => .cld
  | .sed => .sed
  | .clv => .clv
  | .nop => .nop
  | .brk => .brk
  | .rti => .rti
  | .illegal _ => .illegal

/-- The mode column of the table where it names a byte the instruction reads or writes at `ea`: `none` for implied,
accumulator, relative, JMP and JSR (whose operand is a target, not a byte) and ILLEGAL. -/
def Instr.operand : Instr → Option Operand
  | .ldaImm v => some (.imm v)
  | .ldaZp b => some (.zp b)
  | .ldaZpX b => some (.zpx b)
  | .ldaAbs a => some (.abs a)
  | .ldaAbsX a => some (.absx a)
  | .ldaAbsY a => some (.absy a)
  | .ldaIndX b => some (.indx b)
  | .ldaIndY b => some (.indy b)
  | .ldxImm v => some (.imm v)
  | .ldxZp b => some (.zp b)
  | .ldxZpY b => some (.zpy b)
  | .ldxAbs a => some (.abs a)
  | .ldxAbsY a => some (.absy a)
  | .ldyImm v => some (.imm v)
  | .ldyZp b => some (.zp b)
  | .ldyZpX b => some (.zpx b)
  | .ldyAbs a => some (.abs a)
  | .ldyAbsX a => some (.absx a)
  | .staZp b => some (.zp b)
  | .staZpX b => some (.zpx b)
  | .staAbs a => some (.abs a)
  | .staAbsX a => some (.absx a)
  | .staAbsY a => some (.absy a)
  | .staIndX b => some (.indx b)
  | .staIndY b => some (.indy b)
  | .stxZp b => some (.zp b)
  | .stxZpY b => some (.zpy b)
  | .stxAbs a => some (.abs a)
  | .styZp b => some (.zp b)
  | .styZpX b => some (.zpx b)
  | .styAbs a => some (.abs a)
  | .tax => none
  | .tay => none
  | .txa => none
  | .tya => none
  | .tsx => none
  | .txs => none
  | .adcImm v => some (.imm v)
  | .adcZp b => some (.zp b)
  | .adcZpX b => some (.zpx b)
  | .adcAbs a => some (.abs a)
  | .adcAbsX a => some (.absx a)
  | .adcAbsY a => some (.absy a)
  | .adcIndX b => some (.indx b)
  | .adcIndY b => some (.indy b)
  | .sbcImm v => some (.imm v)
  | .sbcZp b => some (.zp b)
  | .sbcZpX b => some (.zpx b)
  | .sbcAbs a => some (.abs a)
  | .sbcAbsX a => some (.absx a)
  | .sbcAbsY a => some (.absy a)
  | .sbcIndX b => some (.indx b)
  | .sbcIndY b => some (.indy b)
  | .cmpImm v => some (.imm v)
  | .cmpZp b => some (.zp b)
  | .cmpZpX b => some (.zpx b)
  | .cmpAbs a => some (.abs a)
  | .cmpAbsX a => some (.absx a)
  | .cmpAbsY a => some (.absy a)
  | .cmpIndX b => some (.indx b)
  | .cmpIndY b => some (.indy b)
  | .cpxImm v => some (.imm v)
  | .cpxZp b => some (.zp b)
  | .cpxAbs a => some (.abs a)
  | .cpyImm v => some (.imm v)
  | .cpyZp b => some (.zp b)
  | .cpyAbs a => some (.abs a)
  | .incZp b => some (.zp b)
  | .incZpX b => some (.zpx b)
  | .incAbs a => some (.abs a)
  | .incAbsX a => some (.absx a)
  | .decZp b => some (.zp b)
  | .decZpX b => some (.zpx b)
  | .decAbs a => some (.abs a)
  | .decAbsX a => some (.absx a)
  | .inx => none
  | .iny => none
  | .dex => none
  | .dey => none
  | .andImm v => some (.imm v)
  | .andZp b => some (.zp b)
  | .andZpX b => some (.zpx b)
  | .andAbs a => some (.abs a)
  | .andAbsX a => some (.absx a)
  | .andAbsY a => some (.absy a)
  | .andIndX b => some (.indx b)
  | .andIndY b => some (.indy b)
  | .oraImm v => some (.imm v)
  | .oraZp b => some (.zp b)
  | .oraZpX b => some (.zpx b)
  | .oraAbs a => some (.abs a)
  | .oraAbsX a => some (.absx a)
  | .oraAbsY a => some (.absy a)
  | .oraIndX b => some (.indx b)
  | .oraIndY b => some (.indy b)
  | .eorImm v => some (.imm v)
  | .eorZp b => some (.zp b)
  | .eorZpX b => some (.zpx b)
  | .eorAbs a => some (.abs a)
  | .eorAbsX a => some (.absx a)
  | .eorAbsY a => some (.absy a)
  | .eorIndX b => some (.indx b)
  | .eorIndY b => some (.indy b)
  | .bitZp b => some (.zp b)
  | .bitAbs a => some (.abs a)
  | .aslZp b => some (.zp b)
  | .aslZpX b => some (.zpx b)
  | .aslAbs a => some (.abs a)
  | .aslAbsX a => some (.absx a)
  | .aslAcc => none
  | .lsrZp b => some (.zp b)
  | .lsrZpX b => some (.zpx b)
  | .lsrAbs a => some (.abs a)
  | .lsrAbsX a => some (.absx a)
  | .lsrAcc => none
  | .rolZp b => some (.zp b)
  | .rolZpX b => some (.zpx b)
  | .rolAbs a => some (.abs a)
  | .rolAbsX a => some (.absx a)
  | .rolAcc => none
  | .rorZp b => some (.zp b)
  | .rorZpX b => some (.zpx b)
  | .rorAbs a => some (.abs a)
  | .rorAbsX a => some (.absx a)
  | .rorAcc => none
  | .bcc _ => none
  | .bcs _ => none
  | .beq _ => none
  | .bmi _ => none
  | .bne _ => none
  | .bpl _ => none
  | .bvc _ => none
  | .bvs _ => none
  | .jmpAbs _ => none
  | .jmpInd _ => none
  | .jsr _ => none
  | .rts => none
  | .pha => none
  | .pla => none
  | .php => none
  | .plp => none
  | .clc => none
  | .sec => none
  | .cli => none
  | .sei => none
  | .cld => none
  | .sed => none
  | .clv => none
  | .nop => none
  | .brk => none
  | .rti => none
  | .illegal _ => none

end Sys2Proof
end

