-- ==== Sys2Proof/WellFormed.lean ====
section
/-! DEFINITION. Which terms of Instr stand for a row of the table. Every operand value is legal for every instruction
(R140), so the one check is that `illegal` carries one of the 105 bytes that have no table entry (R139). -/

namespace Sys2Proof

/-- The 105 opcode bytes with no table entry, as R139 lists them. -/
def illegalBytes : List Byte :=
  [0x02, 0x03, 0x04, 0x07, 0x0B, 0x0C, 0x0F, 0x12, 0x13, 0x14, 0x17, 0x1A, 0x1B, 0x1C, 0x1F] ++
  [0x22, 0x23, 0x27, 0x2B, 0x2F, 0x32, 0x33, 0x34, 0x37, 0x3A, 0x3B, 0x3C, 0x3F, 0x42, 0x43] ++
  [0x44, 0x47, 0x4B, 0x4F, 0x52, 0x53, 0x54, 0x57, 0x5A, 0x5B, 0x5C, 0x5F, 0x62, 0x63, 0x64] ++
  [0x67, 0x6B, 0x6F, 0x72, 0x73, 0x74, 0x77, 0x7A, 0x7B, 0x7C, 0x7F, 0x80, 0x82, 0x83, 0x87] ++
  [0x89, 0x8B, 0x8F, 0x92, 0x93, 0x97, 0x9B, 0x9C, 0x9E, 0x9F, 0xA3, 0xA7, 0xAB, 0xAF, 0xB2] ++
  [0xB3, 0xB7, 0xBB, 0xBF, 0xC2, 0xC3, 0xC7, 0xCB, 0xCF, 0xD2, 0xD3, 0xD4, 0xD7, 0xDA, 0xDB] ++
  [0xDC, 0xDF, 0xE2, 0xE3, 0xE7, 0xEB, 0xEF, 0xF2, 0xF3, 0xF4, 0xF7, 0xFA, 0xFB, 0xFC, 0xFF]

/-- R139, R140: only the opcode byte can be illegal. -/
def Instr.wf : Instr → Bool
  | .illegal opcode => illegalBytes.contains opcode
  | .ldaImm _ => true
  | .ldaZp _ => true
  | .ldaZpX _ => true
  | .ldaAbs _ => true
  | .ldaAbsX _ => true
  | .ldaAbsY _ => true
  | .ldaIndX _ => true
  | .ldaIndY _ => true
  | .ldxImm _ => true
  | .ldxZp _ => true
  | .ldxZpY _ => true
  | .ldxAbs _ => true
  | .ldxAbsY _ => true
  | .ldyImm _ => true
  | .ldyZp _ => true
  | .ldyZpX _ => true
  | .ldyAbs _ => true
  | .ldyAbsX _ => true
  | .staZp _ => true
  | .staZpX _ => true
  | .staAbs _ => true
  | .staAbsX _ => true
  | .staAbsY _ => true
  | .staIndX _ => true
  | .staIndY _ => true
  | .stxZp _ => true
  | .stxZpY _ => true
  | .stxAbs _ => true
  | .styZp _ => true
  | .styZpX _ => true
  | .styAbs _ => true
  | .tax => true
  | .tay => true
  | .txa => true
  | .tya => true
  | .tsx => true
  | .txs => true
  | .adcImm _ => true
  | .adcZp _ => true
  | .adcZpX _ => true
  | .adcAbs _ => true
  | .adcAbsX _ => true
  | .adcAbsY _ => true
  | .adcIndX _ => true
  | .adcIndY _ => true
  | .sbcImm _ => true
  | .sbcZp _ => true
  | .sbcZpX _ => true
  | .sbcAbs _ => true
  | .sbcAbsX _ => true
  | .sbcAbsY _ => true
  | .sbcIndX _ => true
  | .sbcIndY _ => true
  | .cmpImm _ => true
  | .cmpZp _ => true
  | .cmpZpX _ => true
  | .cmpAbs _ => true
  | .cmpAbsX _ => true
  | .cmpAbsY _ => true
  | .cmpIndX _ => true
  | .cmpIndY _ => true
  | .cpxImm _ => true
  | .cpxZp _ => true
  | .cpxAbs _ => true
  | .cpyImm _ => true
  | .cpyZp _ => true
  | .cpyAbs _ => true
  | .incZp _ => true
  | .incZpX _ => true
  | .incAbs _ => true
  | .incAbsX _ => true
  | .decZp _ => true
  | .decZpX _ => true
  | .decAbs _ => true
  | .decAbsX _ => true
  | .inx => true
  | .iny => true
  | .dex => true
  | .dey => true
  | .andImm _ => true
  | .andZp _ => true
  | .andZpX _ => true
  | .andAbs _ => true
  | .andAbsX _ => true
  | .andAbsY _ => true
  | .andIndX _ => true
  | .andIndY _ => true
  | .oraImm _ => true
  | .oraZp _ => true
  | .oraZpX _ => true
  | .oraAbs _ => true
  | .oraAbsX _ => true
  | .oraAbsY _ => true
  | .oraIndX _ => true
  | .oraIndY _ => true
  | .eorImm _ => true
  | .eorZp _ => true
  | .eorZpX _ => true
  | .eorAbs _ => true
  | .eorAbsX _ => true
  | .eorAbsY _ => true
  | .eorIndX _ => true
  | .eorIndY _ => true
  | .bitZp _ => true
  | .bitAbs _ => true
  | .aslZp _ => true
  | .aslZpX _ => true
  | .aslAbs _ => true
  | .aslAbsX _ => true
  | .aslAcc => true
  | .lsrZp _ => true
  | .lsrZpX _ => true
  | .lsrAbs _ => true
  | .lsrAbsX _ => true
  | .lsrAcc => true
  | .rolZp _ => true
  | .rolZpX _ => true
  | .rolAbs _ => true
  | .rolAbsX _ => true
  | .rolAcc => true
  | .rorZp _ => true
  | .rorZpX _ => true
  | .rorAbs _ => true
  | .rorAbsX _ => true
  | .rorAcc => true
  | .bcc _ => true
  | .bcs _ => true
  | .beq _ => true
  | .bmi _ => true
  | .bne _ => true
  | .bpl _ => true
  | .bvc _ => true
  | .bvs _ => true
  | .jmpAbs _ => true
  | .jmpInd _ => true
  | .jsr _ => true
  | .rts => true
  | .pha => true
  | .pla => true
  | .php => true
  | .plp => true
  | .clc => true
  | .sec => true
  | .cli => true
  | .sei => true
  | .cld => true
  | .sed => true
  | .clv => true
  | .nop => true
  | .brk => true
  | .rti => true

end Sys2Proof
end

