-- ==== Sys2Proof/Decode.lean ====
section
/-! DEFINITION. Decoding (R130 to R139), total on any bytes, and after it the encoder, both from the opcode map of R137.
A byte with no table entry decodes to `illegal`, the instruction that raises IllegalOpcodeFault. The only refusals are
of byte lists that end too early, by name. -/

namespace Sys2Proof

/-- `hi || lo` (00_scope.md section 6; little-endian operands, R106, R134). -/
def wordOf (hi lo : Byte) : Addr := hi ++ lo

/-- `v[15:8]`. -/
def hiByte (v : Addr) : Byte := v.extractLsb' 8 8

/-- `v[7:0]`. -/
def loByte (v : Addr) : Byte := v.extractLsb' 0 8

/-- The opcode bytes of format F2 (R133): 2 bytes. -/
def twoByteOpcodes : List Byte :=
  [0x01, 0x05, 0x06, 0x09, 0x10, 0x11, 0x15, 0x16, 0x21, 0x24, 0x25, 0x26, 0x29, 0x30, 0x31, 0x35] ++
  [0x36, 0x41, 0x45, 0x46, 0x49, 0x50, 0x51, 0x55, 0x56, 0x61, 0x65, 0x66, 0x69, 0x70, 0x71, 0x75] ++
  [0x76, 0x81, 0x84, 0x85, 0x86, 0x90, 0x91, 0x94, 0x95, 0x96, 0xA0, 0xA1, 0xA2, 0xA4, 0xA5, 0xA6] ++
  [0xA9, 0xB0, 0xB1, 0xB4, 0xB5, 0xB6, 0xC0, 0xC1, 0xC4, 0xC5, 0xC6, 0xC9, 0xD0, 0xD1, 0xD5, 0xD6] ++
  [0xE0, 0xE1, 0xE4, 0xE5, 0xE6, 0xE9, 0xF0, 0xF1, 0xF5, 0xF6]

/-- The opcode bytes of format F3 (R134): 3 bytes. -/
def threeByteOpcodes : List Byte :=
  [0x0D, 0x0E, 0x19, 0x1D, 0x1E, 0x20, 0x2C, 0x2D, 0x2E, 0x39, 0x3D, 0x3E, 0x4C, 0x4D, 0x4E, 0x59] ++
  [0x5D, 0x5E, 0x6C, 0x6D, 0x6E, 0x79, 0x7D, 0x7E, 0x8C, 0x8D, 0x8E, 0x99, 0x9D, 0xAC, 0xAD, 0xAE] ++
  [0xB9, 0xBC, 0xBD, 0xBE, 0xCC, 0xCD, 0xCE, 0xD9, 0xDD, 0xDE, 0xEC, 0xED, 0xEE, 0xF9, 0xFD, 0xFE]

/-- The length of an instruction, "a function of the opcode byte alone" (R130). An illegal byte is one byte long: its
operand bytes are not fetched (R140). -/
def opcodeLength (op : Byte) : Nat :=
  if threeByteOpcodes.contains op then 3 else if twoByteOpcodes.contains op then 2 else 1

/-- Row 0x of the opcode map (R137); `b1`, `b2` are the operand bytes of R133, R134. -/
def decodeRow0 (op b1 b2 : Byte) : Instr :=
  match op.toNat % 16 with
  | 0x0 => .brk
  | 0x1 => .oraIndX b1
  | 0x5 => .oraZp b1
  | 0x6 => .aslZp b1
  | 0x8 => .php
  | 0x9 => .oraImm b1
  | 0xA => .aslAcc
  | 0xD => .oraAbs (wordOf b2 b1)
  | 0xE => .aslAbs (wordOf b2 b1)
  | _ => .illegal op

/-- Row 1x of the opcode map (R137); `b1`, `b2` are the operand bytes of R133, R134. -/
def decodeRow1 (op b1 b2 : Byte) : Instr :=
  match op.toNat % 16 with
  | 0x0 => .bpl b1
  | 0x1 => .oraIndY b1
  | 0x5 => .oraZpX b1
  | 0x6 => .aslZpX b1
  | 0x8 => .clc
  | 0x9 => .oraAbsY (wordOf b2 b1)
  | 0xD => .oraAbsX (wordOf b2 b1)
  | 0xE => .aslAbsX (wordOf b2 b1)
  | _ => .illegal op

/-- Row 2x of the opcode map (R137); `b1`, `b2` are the operand bytes of R133, R134. -/
def decodeRow2 (op b1 b2 : Byte) : Instr :=
  match op.toNat % 16 with
  | 0x0 => .jsr (wordOf b2 b1)
  | 0x1 => .andIndX b1
  | 0x4 => .bitZp b1
  | 0x5 => .andZp b1
  | 0x6 => .rolZp b1
  | 0x8 => .plp
  | 0x9 => .andImm b1
  | 0xA => .rolAcc
  | 0xC => .bitAbs (wordOf b2 b1)
  | 0xD => .andAbs (wordOf b2 b1)
  | 0xE => .rolAbs (wordOf b2 b1)
  | _ => .illegal op

/-- Row 3x of the opcode map (R137); `b1`, `b2` are the operand bytes of R133, R134. -/
def decodeRow3 (op b1 b2 : Byte) : Instr :=
  match op.toNat % 16 with
  | 0x0 => .bmi b1
  | 0x1 => .andIndY b1
  | 0x5 => .andZpX b1
  | 0x6 => .rolZpX b1
  | 0x8 => .sec
  | 0x9 => .andAbsY (wordOf b2 b1)
  | 0xD => .andAbsX (wordOf b2 b1)
  | 0xE => .rolAbsX (wordOf b2 b1)
  | _ => .illegal op

/-- Row 4x of the opcode map (R137); `b1`, `b2` are the operand bytes of R133, R134. -/
def decodeRow4 (op b1 b2 : Byte) : Instr :=
  match op.toNat % 16 with
  | 0x0 => .rti
  | 0x1 => .eorIndX b1
  | 0x5 => .eorZp b1
  | 0x6 => .lsrZp b1
  | 0x8 => .pha
  | 0x9 => .eorImm b1
  | 0xA => .lsrAcc
  | 0xC => .jmpAbs (wordOf b2 b1)
  | 0xD => .eorAbs (wordOf b2 b1)
  | 0xE => .lsrAbs (wordOf b2 b1)
  | _ => .illegal op

/-- Row 5x of the opcode map (R137); `b1`, `b2` are the operand bytes of R133, R134. -/
def decodeRow5 (op b1 b2 : Byte) : Instr :=
  match op.toNat % 16 with
  | 0x0 => .bvc b1
  | 0x1 => .eorIndY b1
  | 0x5 => .eorZpX b1
  | 0x6 => .lsrZpX b1
  | 0x8 => .cli
  | 0x9 => .eorAbsY (wordOf b2 b1)
  | 0xD => .eorAbsX (wordOf b2 b1)
  | 0xE => .lsrAbsX (wordOf b2 b1)
  | _ => .illegal op

/-- Row 6x of the opcode map (R137); `b1`, `b2` are the operand bytes of R133, R134. -/
def decodeRow6 (op b1 b2 : Byte) : Instr :=
  match op.toNat % 16 with
  | 0x0 => .rts
  | 0x1 => .adcIndX b1
  | 0x5 => .adcZp b1
  | 0x6 => .rorZp b1
  | 0x8 => .pla
  | 0x9 => .adcImm b1
  | 0xA => .rorAcc
  | 0xC => .jmpInd (wordOf b2 b1)
  | 0xD => .adcAbs (wordOf b2 b1)
  | 0xE => .rorAbs (wordOf b2 b1)
  | _ => .illegal op

/-- Row 7x of the opcode map (R137); `b1`, `b2` are the operand bytes of R133, R134. -/
def decodeRow7 (op b1 b2 : Byte) : Instr :=
  match op.toNat % 16 with
  | 0x0 => .bvs b1
  | 0x1 => .adcIndY b1
  | 0x5 => .adcZpX b1
  | 0x6 => .rorZpX b1
  | 0x8 => .sei
  | 0x9 => .adcAbsY (wordOf b2 b1)
  | 0xD => .adcAbsX (wordOf b2 b1)
  | 0xE => .rorAbsX (wordOf b2 b1)
  | _ => .illegal op

/-- Row 8x of the opcode map (R137); `b1`, `b2` are the operand bytes of R133, R134. -/
def decodeRow8 (op b1 b2 : Byte) : Instr :=
  match op.toNat % 16 with
  | 0x1 => .staIndX b1
  | 0x4 => .styZp b1
  | 0x5 => .staZp b1
  | 0x6 => .stxZp b1
  | 0x8 => .dey
  | 0xA => .txa
  | 0xC => .styAbs (wordOf b2 b1)
  | 0xD => .staAbs (wordOf b2 b1)
  | 0xE => .stxAbs (wordOf b2 b1)
  | _ => .illegal op

/-- Row 9x of the opcode map (R137); `b1`, `b2` are the operand bytes of R133, R134. -/
def decodeRow9 (op b1 b2 : Byte) : Instr :=
  match op.toNat % 16 with
  | 0x0 => .bcc b1
  | 0x1 => .staIndY b1
  | 0x4 => .styZpX b1
  | 0x5 => .staZpX b1
  | 0x6 => .stxZpY b1
  | 0x8 => .tya
  | 0x9 => .staAbsY (wordOf b2 b1)
  | 0xA => .txs
  | 0xD => .staAbsX (wordOf b2 b1)
  | _ => .illegal op

/-- Row Ax of the opcode map (R137); `b1`, `b2` are the operand bytes of R133, R134. -/
def decodeRowA (op b1 b2 : Byte) : Instr :=
  match op.toNat % 16 with
  | 0x0 => .ldyImm b1
  | 0x1 => .ldaIndX b1
  | 0x2 => .ldxImm b1
  | 0x4 => .ldyZp b1
  | 0x5 => .ldaZp b1
  | 0x6 => .ldxZp b1
  | 0x8 => .tay
  | 0x9 => .ldaImm b1
  | 0xA => .tax
  | 0xC => .ldyAbs (wordOf b2 b1)
  | 0xD => .ldaAbs (wordOf b2 b1)
  | 0xE => .ldxAbs (wordOf b2 b1)
  | _ => .illegal op

/-- Row Bx of the opcode map (R137); `b1`, `b2` are the operand bytes of R133, R134. -/
def decodeRowB (op b1 b2 : Byte) : Instr :=
  match op.toNat % 16 with
  | 0x0 => .bcs b1
  | 0x1 => .ldaIndY b1
  | 0x4 => .ldyZpX b1
  | 0x5 => .ldaZpX b1
  | 0x6 => .ldxZpY b1
  | 0x8 => .clv
  | 0x9 => .ldaAbsY (wordOf b2 b1)
  | 0xA => .tsx
  | 0xC => .ldyAbsX (wordOf b2 b1)
  | 0xD => .ldaAbsX (wordOf b2 b1)
  | 0xE => .ldxAbsY (wordOf b2 b1)
  | _ => .illegal op

/-- Row Cx of the opcode map (R137); `b1`, `b2` are the operand bytes of R133, R134. -/
def decodeRowC (op b1 b2 : Byte) : Instr :=
  match op.toNat % 16 with
  | 0x0 => .cpyImm b1
  | 0x1 => .cmpIndX b1
  | 0x4 => .cpyZp b1
  | 0x5 => .cmpZp b1
  | 0x6 => .decZp b1
  | 0x8 => .iny
  | 0x9 => .cmpImm b1
  | 0xA => .dex
  | 0xC => .cpyAbs (wordOf b2 b1)
  | 0xD => .cmpAbs (wordOf b2 b1)
  | 0xE => .decAbs (wordOf b2 b1)
  | _ => .illegal op

/-- Row Dx of the opcode map (R137); `b1`, `b2` are the operand bytes of R133, R134. -/
def decodeRowD (op b1 b2 : Byte) : Instr :=
  match op.toNat % 16 with
  | 0x0 => .bne b1
  | 0x1 => .cmpIndY b1
  | 0x5 => .cmpZpX b1
  | 0x6 => .decZpX b1
  | 0x8 => .cld
  | 0x9 => .cmpAbsY (wordOf b2 b1)
  | 0xD => .cmpAbsX (wordOf b2 b1)
  | 0xE => .decAbsX (wordOf b2 b1)
  | _ => .illegal op

/-- Row Ex of the opcode map (R137); `b1`, `b2` are the operand bytes of R133, R134. -/
def decodeRowE (op b1 b2 : Byte) : Instr :=
  match op.toNat % 16 with
  | 0x0 => .cpxImm b1
  | 0x1 => .sbcIndX b1
  | 0x4 => .cpxZp b1
  | 0x5 => .sbcZp b1
  | 0x6 => .incZp b1
  | 0x8 => .inx
  | 0x9 => .sbcImm b1
  | 0xA => .nop
  | 0xC => .cpxAbs (wordOf b2 b1)
  | 0xD => .sbcAbs (wordOf b2 b1)
  | 0xE => .incAbs (wordOf b2 b1)
  | _ => .illegal op

/-- Row Fx of the opcode map (R137); `b1`, `b2` are the operand bytes of R133, R134. -/
def decodeRowF (op b1 b2 : Byte) : Instr :=
  match op.toNat % 16 with
  | 0x0 => .beq b1
  | 0x1 => .sbcIndY b1
  | 0x5 => .sbcZpX b1
  | 0x6 => .incZpX b1
  | 0x8 => .sed
  | 0x9 => .sbcAbsY (wordOf b2 b1)
  | 0xD => .sbcAbsX (wordOf b2 b1)
  | 0xE => .incAbsX (wordOf b2 b1)
  | _ => .illegal op

/-- Decode is one table lookup (R131): the row is opcode bits 7..4, the column bits 3..0 (R137). -/
def assemble (op b1 b2 : Byte) : Instr :=
  match op.toNat / 16 with
  | 0x0 => decodeRow0 op b1 b2
  | 0x1 => decodeRow1 op b1 b2
  | 0x2 => decodeRow2 op b1 b2
  | 0x3 => decodeRow3 op b1 b2
  | 0x4 => decodeRow4 op b1 b2
  | 0x5 => decodeRow5 op b1 b2
  | 0x6 => decodeRow6 op b1 b2
  | 0x7 => decodeRow7 op b1 b2
  | 0x8 => decodeRow8 op b1 b2
  | 0x9 => decodeRow9 op b1 b2
  | 0xA => decodeRowA op b1 b2
  | 0xB => decodeRowB op b1 b2
  | 0xC => decodeRowC op b1 b2
  | 0xD => decodeRowD op b1 b2
  | 0xE => decodeRowE op b1 b2
  | _ => decodeRowF op b1 b2

/-- Why a list of bytes holds no instruction: the list is empty, or it ends before the instruction does. -/
inductive DecodeError where
  | noBytes
  | truncated (opcode : Byte) (needs : Nat)
  deriving DecidableEq, Repr

/-- The instruction at the head of a list of bytes and the bytes after it (R130: opcode byte, then 0, 1 or 2 operand
bytes at the next higher addresses). -/
def decode : List Byte → Except DecodeError (Instr × List Byte)
  | [] => .error .noBytes
  | op :: rest =>
    match opcodeLength op, rest with
    | 1, rest => .ok (assemble op 0 0, rest)
    | 2, b1 :: rest => .ok (assemble op b1 0, rest)
    | 3, b1 :: b2 :: rest => .ok (assemble op b1 b2, rest)
    | n, _ => .error (.truncated op n)

/-- The opcode byte of an instruction, from R138's table. -/
def opcodeOf : Instr → Byte
  | .ldaImm _ => 0xA9
  | .ldaZp _ => 0xA5
  | .ldaZpX _ => 0xB5
  | .ldaAbs _ => 0xAD
  | .ldaAbsX _ => 0xBD
  | .ldaAbsY _ => 0xB9
  | .ldaIndX _ => 0xA1
  | .ldaIndY _ => 0xB1
  | .ldxImm _ => 0xA2
  | .ldxZp _ => 0xA6
  | .ldxZpY _ => 0xB6
  | .ldxAbs _ => 0xAE
  | .ldxAbsY _ => 0xBE
  | .ldyImm _ => 0xA0
  | .ldyZp _ => 0xA4
  | .ldyZpX _ => 0xB4
  | .ldyAbs _ => 0xAC
  | .ldyAbsX _ => 0xBC
  | .staZp _ => 0x85
  | .staZpX _ => 0x95
  | .staAbs _ => 0x8D
  | .staAbsX _ => 0x9D
  | .staAbsY _ => 0x99
  | .staIndX _ => 0x81
  | .staIndY _ => 0x91
  | .stxZp _ => 0x86
  | .stxZpY _ => 0x96
  | .stxAbs _ => 0x8E
  | .styZp _ => 0x84
  | .styZpX _ => 0x94
  | .styAbs _ => 0x8C
  | .tax => 0xAA
  | .tay => 0xA8
  | .txa => 0x8A
  | .tya => 0x98
  | .tsx => 0xBA
  | .txs => 0x9A
  | .adcImm _ => 0x69
  | .adcZp _ => 0x65
  | .adcZpX _ => 0x75
  | .adcAbs _ => 0x6D
  | .adcAbsX _ => 0x7D
  | .adcAbsY _ => 0x79
  | .adcIndX _ => 0x61
  | .adcIndY _ => 0x71
  | .sbcImm _ => 0xE9
  | .sbcZp _ => 0xE5
  | .sbcZpX _ => 0xF5
  | .sbcAbs _ => 0xED
  | .sbcAbsX _ => 0xFD
  | .sbcAbsY _ => 0xF9
  | .sbcIndX _ => 0xE1
  | .sbcIndY _ => 0xF1
  | .cmpImm _ => 0xC9
  | .cmpZp _ => 0xC5
  | .cmpZpX _ => 0xD5
  | .cmpAbs _ => 0xCD
  | .cmpAbsX _ => 0xDD
  | .cmpAbsY _ => 0xD9
  | .cmpIndX _ => 0xC1
  | .cmpIndY _ => 0xD1
  | .cpxImm _ => 0xE0
  | .cpxZp _ => 0xE4
  | .cpxAbs _ => 0xEC
  | .cpyImm _ => 0xC0
  | .cpyZp _ => 0xC4
  | .cpyAbs _ => 0xCC
  | .incZp _ => 0xE6
  | .incZpX _ => 0xF6
  | .incAbs _ => 0xEE
  | .incAbsX _ => 0xFE
  | .decZp _ => 0xC6
  | .decZpX _ => 0xD6
  | .decAbs _ => 0xCE
  | .decAbsX _ => 0xDE
  | .inx => 0xE8
  | .iny => 0xC8
  | .dex => 0xCA
  | .dey => 0x88
  | .andImm _ => 0x29
  | .andZp _ => 0x25
  | .andZpX _ => 0x35
  | .andAbs _ => 0x2D
  | .andAbsX _ => 0x3D
  | .andAbsY _ => 0x39
  | .andIndX _ => 0x21
  | .andIndY _ => 0x31
  | .oraImm _ => 0x09
  | .oraZp _ => 0x05
  | .oraZpX _ => 0x15
  | .oraAbs _ => 0x0D
  | .oraAbsX _ => 0x1D
  | .oraAbsY _ => 0x19
  | .oraIndX _ => 0x01
  | .oraIndY _ => 0x11
  | .eorImm _ => 0x49
  | .eorZp _ => 0x45
  | .eorZpX _ => 0x55
  | .eorAbs _ => 0x4D
  | .eorAbsX _ => 0x5D
  | .eorAbsY _ => 0x59
  | .eorIndX _ => 0x41
  | .eorIndY _ => 0x51
  | .bitZp _ => 0x24
  | .bitAbs _ => 0x2C
  | .aslZp _ => 0x06
  | .aslZpX _ => 0x16
  | .aslAbs _ => 0x0E
  | .aslAbsX _ => 0x1E
  | .aslAcc => 0x0A
  | .lsrZp _ => 0x46
  | .lsrZpX _ => 0x56
  | .lsrAbs _ => 0x4E
  | .lsrAbsX _ => 0x5E
  | .lsrAcc => 0x4A
  | .rolZp _ => 0x26
  | .rolZpX _ => 0x36
  | .rolAbs _ => 0x2E
  | .rolAbsX _ => 0x3E
  | .rolAcc => 0x2A
  | .rorZp _ => 0x66
  | .rorZpX _ => 0x76
  | .rorAbs _ => 0x6E
  | .rorAbsX _ => 0x7E
  | .rorAcc => 0x6A
  | .bcc _ => 0x90
  | .bcs _ => 0xB0
  | .beq _ => 0xF0
  | .bmi _ => 0x30
  | .bne _ => 0xD0
  | .bpl _ => 0x10
  | .bvc _ => 0x50
  | .bvs _ => 0x70
  | .jmpAbs _ => 0x4C
  | .jmpInd _ => 0x6C
  | .jsr _ => 0x20
  | .rts => 0x60
  | .pha => 0x48
  | .pla => 0x68
  | .php => 0x08
  | .plp => 0x28
  | .clc => 0x18
  | .sec => 0x38
  | .cli => 0x58
  | .sei => 0x78
  | .cld => 0xD8
  | .sed => 0xF8
  | .clv => 0xB8
  | .nop => 0xEA
  | .brk => 0x00
  | .rti => 0x40
  | .illegal opcode => opcode

/-- The operand bytes of an instruction in address order (R133, R134). -/
def operandBytes : Instr → List Byte
  | .ldaImm v => [v]
  | .ldaZp b => [b]
  | .ldaZpX b => [b]
  | .ldaAbs a => [loByte a, hiByte a]
  | .ldaAbsX a => [loByte a, hiByte a]
  | .ldaAbsY a => [loByte a, hiByte a]
  | .ldaIndX b => [b]
  | .ldaIndY b => [b]
  | .ldxImm v => [v]
  | .ldxZp b => [b]
  | .ldxZpY b => [b]
  | .ldxAbs a => [loByte a, hiByte a]
  | .ldxAbsY a => [loByte a, hiByte a]
  | .ldyImm v => [v]
  | .ldyZp b => [b]
  | .ldyZpX b => [b]
  | .ldyAbs a => [loByte a, hiByte a]
  | .ldyAbsX a => [loByte a, hiByte a]
  | .staZp b => [b]
  | .staZpX b => [b]
  | .staAbs a => [loByte a, hiByte a]
  | .staAbsX a => [loByte a, hiByte a]
  | .staAbsY a => [loByte a, hiByte a]
  | .staIndX b => [b]
  | .staIndY b => [b]
  | .stxZp b => [b]
  | .stxZpY b => [b]
  | .stxAbs a => [loByte a, hiByte a]
  | .styZp b => [b]
  | .styZpX b => [b]
  | .styAbs a => [loByte a, hiByte a]
  | .tax => []
  | .tay => []
  | .txa => []
  | .tya => []
  | .tsx => []
  | .txs => []
  | .adcImm v => [v]
  | .adcZp b => [b]
  | .adcZpX b => [b]
  | .adcAbs a => [loByte a, hiByte a]
  | .adcAbsX a => [loByte a, hiByte a]
  | .adcAbsY a => [loByte a, hiByte a]
  | .adcIndX b => [b]
  | .adcIndY b => [b]
  | .sbcImm v => [v]
  | .sbcZp b => [b]
  | .sbcZpX b => [b]
  | .sbcAbs a => [loByte a, hiByte a]
  | .sbcAbsX a => [loByte a, hiByte a]
  | .sbcAbsY a => [loByte a, hiByte a]
  | .sbcIndX b => [b]
  | .sbcIndY b => [b]
  | .cmpImm v => [v]
  | .cmpZp b => [b]
  | .cmpZpX b => [b]
  | .cmpAbs a => [loByte a, hiByte a]
  | .cmpAbsX a => [loByte a, hiByte a]
  | .cmpAbsY a => [loByte a, hiByte a]
  | .cmpIndX b => [b]
  | .cmpIndY b => [b]
  | .cpxImm v => [v]
  | .cpxZp b => [b]
  | .cpxAbs a => [loByte a, hiByte a]
  | .cpyImm v => [v]
  | .cpyZp b => [b]
  | .cpyAbs a => [loByte a, hiByte a]
  | .incZp b => [b]
  | .incZpX b => [b]
  | .incAbs a => [loByte a, hiByte a]
  | .incAbsX a => [loByte a, hiByte a]
  | .decZp b => [b]
  | .decZpX b => [b]
  | .decAbs a => [loByte a, hiByte a]
  | .decAbsX a => [loByte a, hiByte a]
  | .inx => []
  | .iny => []
  | .dex => []
  | .dey => []
  | .andImm v => [v]
  | .andZp b => [b]
  | .andZpX b => [b]
  | .andAbs a => [loByte a, hiByte a]
  | .andAbsX a => [loByte a, hiByte a]
  | .andAbsY a => [loByte a, hiByte a]
  | .andIndX b => [b]
  | .andIndY b => [b]
  | .oraImm v => [v]
  | .oraZp b => [b]
  | .oraZpX b => [b]
  | .oraAbs a => [loByte a, hiByte a]
  | .oraAbsX a => [loByte a, hiByte a]
  | .oraAbsY a => [loByte a, hiByte a]
  | .oraIndX b => [b]
  | .oraIndY b => [b]
  | .eorImm v => [v]
  | .eorZp b => [b]
  | .eorZpX b => [b]
  | .eorAbs a => [loByte a, hiByte a]
  | .eorAbsX a => [loByte a, hiByte a]
  | .eorAbsY a => [loByte a, hiByte a]
  | .eorIndX b => [b]
  | .eorIndY b => [b]
  | .bitZp b => [b]
  | .bitAbs a => [loByte a, hiByte a]
  | .aslZp b => [b]
  | .aslZpX b => [b]
  | .aslAbs a => [loByte a, hiByte a]
  | .aslAbsX a => [loByte a, hiByte a]
  | .aslAcc => []
  | .lsrZp b => [b]
  | .lsrZpX b => [b]
  | .lsrAbs a => [loByte a, hiByte a]
  | .lsrAbsX a => [loByte a, hiByte a]
  | .lsrAcc => []
  | .rolZp b => [b]
  | .rolZpX b => [b]
  | .rolAbs a => [loByte a, hiByte a]
  | .rolAbsX a => [loByte a, hiByte a]
  | .rolAcc => []
  | .rorZp b => [b]
  | .rorZpX b => [b]
  | .rorAbs a => [loByte a, hiByte a]
  | .rorAbsX a => [loByte a, hiByte a]
  | .rorAcc => []
  | .bcc d => [d]
  | .bcs d => [d]
  | .beq d => [d]
  | .bmi d => [d]
  | .bne d => [d]
  | .bpl d => [d]
  | .bvc d => [d]
  | .bvs d => [d]
  | .jmpAbs a => [loByte a, hiByte a]
  | .jmpInd a => [loByte a, hiByte a]
  | .jsr a => [loByte a, hiByte a]
  | .rts => []
  | .pha => []
  | .pla => []
  | .php => []
  | .plp => []
  | .clc => []
  | .sec => []
  | .cli => []
  | .sei => []
  | .cld => []
  | .sed => []
  | .clv => []
  | .nop => []
  | .brk => []
  | .rti => []
  | .illegal _ => []

/-- The bytes of an instruction, opcode first (R130). -/
def encode (i : Instr) : List Byte := opcodeOf i :: operandBytes i

/-- The three bytes (the longest instruction) of a table word: byte 0 is bits 7..0 of `w`, and every bit at or above
`nbits` is 0. -/
def tableBytes (nbits w : Nat) : List Byte :=
  [BitVec.ofNat 8 (w % 2 ^ nbits), BitVec.ofNat 8 (w % 2 ^ nbits / 256), BitVec.ofNat 8 (w % 2 ^ nbits / 65536)]

/-- What the decoder reads from an instruction whose bits, numbered as spec/opcode_table.json numbers them, are `w`. -/
def decodeTableWord (nbits w : Nat) : Option Instr :=
  match decode (tableBytes nbits w) with
  | .ok (i, _) => some i
  | .error _ => none

end Sys2Proof
end

