-- ==== Sys2Proof/Machine/State.lean ====
section
/-! DEFINITION. All the state of the CORE as plain data (10_state.md), the reasons a step can stop, and the state after
reset. Counters and positions are `Nat` or `Int` (the spec counts with them); register contents are bit vectors. -/

namespace Sys2Proof.Machine

/-- Bytes by cell number, in one canonical form (`Memory.wf`): keys strictly rising, no listed byte equal to what an
unlisted cell reads as (`Memory.unlisted`, 0x00; log entry 5). The RAM is keyed by cell 0..127 (R40), the cartridge image by image
index 0..CART_SIZE-1 (R36). -/
abbrev Memory := List Host.Cell

/-- The two players, and the missiles that go with them (R48 preamble). -/
inductive Player where
  | p0 | p1
  deriving DecidableEq, Repr

/-- The five movable objects, in the spec's order P0, P1, M0, M1, BL. -/
inductive Obj where
  | p0 | p1 | m0 | m1 | bl
  deriving DecidableEq, Repr

/-- One value per player (`x[0..1]` in the spec). -/
structure PerPlayer (α : Type) where
  p0 : α
  p1 : α
  deriving DecidableEq, Repr

/-- One value per object (`x[0..4]` in the spec). -/
structure PerObject (α : Type) where
  p0 : α
  p1 : α
  m0 : α
  m1 : α
  bl : α
  deriving DecidableEq, Repr

/-- CART_SIZE (R36, R100): no state exists for any other length (`SizeError`, R453). -/
inductive CartSize where
  | kb2 | kb4 | kb8
  deriving DecidableEq, Repr

/-- The cartridge store: R36, R37. `bank` is read and written only for an 8 KB image. -/
structure Cart where
  image : Memory
  size  : CartSize
  bank  : Bool
  deriving DecidableEq, Repr

/-- The prescale divisors 1, 8, 64, 1024 (R44): `timer_shift` 0, 3, 6, 10. -/
inductive Prescale where
  | div1 | div8 | div64 | div1024
  deriving DecidableEq, Repr

/-- The I/O and timer chip but for its RAM (R41 to R45). -/
structure Io where
  swcha        : Byte
  swchb        : Byte
  timerRaw     : Nat
  prescale     : Prescale
  timerWritten : Byte
  deriving DecidableEq, Repr

/-- The fifteen collision latches `cx[k]` (R64). -/
structure Collisions where
  m0p1 : Bool
  m0p0 : Bool
  m1p0 : Bool
  m1p1 : Bool
  p0pf : Bool
  p0bl : Bool
  p1pf : Bool
  p1bl : Bool
  m0pf : Bool
  m0bl : Bool
  m1pf : Bool
  m1bl : Bool
  blpf : Bool
  p0p1 : Bool
  m0m1 : Bool
  deriving DecidableEq, Repr

/-- The audio latches AUDC0, AUDC1, AUDF0, AUDF1, AUDV0, AUDV1 (R66, R326). -/
structure Audio where
  audc0 : Byte
  audc1 : Byte
  audf0 : Byte
  audf1 : Byte
  audv0 : Byte
  audv1 : Byte
  deriving DecidableEq, Repr

/-- The video chip's output calls (R67, R386, R387). -/
inductive Event where
  | setPixel (x y : Nat) (colour : Byte)
  | refresh
  deriving DecidableEq, Repr

/-- The video chip (R48 to R66). `pf_pattern` is computed on use (`pfPattern`), as R56 allows. `events` is the event
history of R67, newest first (log entry 7). -/
@[ext]
structure Video where
  hpos          : Nat
  vpos          : Nat
  wsyncLatch    : Bool
  waiting       : Bool
  nusiz         : PerPlayer Byte
  colup         : PerPlayer Byte
  colupf        : Byte
  colubk        : Byte
  ctrlpf        : Byte
  refp          : PerPlayer Bool
  pf0           : Byte
  pf1           : Byte
  pf2           : Byte
  grpWritten    : PerPlayer Byte
  grpActive     : PerPlayer Byte
  grpPending    : PerPlayer Bool
  enam          : PerPlayer Bool
  enablWritten  : Bool
  enablActive   : Bool
  enablPending  : Bool
  hmPending     : PerObject Int
  hmApplied     : PerObject Int
  vdelp         : PerPlayer Bool
  vdelbl        : Bool
  startPos      : PerObject Nat
  armed         : PerObject Bool
  cx            : Collisions
  inpt4         : Byte
  inpt5         : Byte
  vblankReg     : Byte
  aud           : Audio
  events        : List Event
  deriving DecidableEq, Repr

/-- The launch parameters the spec leaves OPEN (00_scope.md section 5, R72, R75 to R77, R373, R483): what a reset loads
where the spec names no value, and the first line of the visible band. No step changes them (log entry 3). -/
structure Launch where
  resetA           : Byte
  resetX           : Byte
  resetY           : Byte
  resetSp          : Byte
  resetC           : Bool
  resetZ           : Bool
  resetD           : Bool
  resetB           : Bool
  resetV           : Bool
  resetN           : Bool
  resetBank        : Bool
  resetRam         : Memory
  resetTimerRaw    : Nat
  resetPrescale    : Prescale
  firstVisibleLine : Nat
  deriving DecidableEq, Repr

/-- The two input shadow registers of the I/O chip (R41, R42). -/
inductive InputReg where
  | swcha | swchb
  deriving DecidableEq, Repr

/-- A joystick direction (R425, R432). -/
inductive Direction where
  | right | left | down | up
  deriving DecidableEq, Repr

/-- A console switch (R425, R432). -/
inductive ConsoleSwitch where
  | reset | select | colour | difficulty0 | difficulty1
  deriving DecidableEq, Repr

/-- What the host may do between two system steps (R7): its input calls (R352, R432) and a reset (R482). -/
inductive HostCall where
  | setFire     (p : Player) (pressed : Bool)
  | setLine     (reg : InputReg) (bit : Fin 8) (level : Bool)
  | setJoystick (p : Player) (dir : Direction) (pressed : Bool)
  | setSwitch   (which : ConsoleSwitch) (level : Bool)
  | reset
  deriving DecidableEq, Repr

/-- The state of the CORE: the CPU (R20 to R34; `U` always reads 1 and is not stored, R30), the cartridge store, the RAM and the
rest of the I/O chip, and the video chip; then what is the model's own: the launch parameters, the stream of host calls
still to come (one list per system step, D29, log entry 4) and the counter that the free values are applied to (log entry 9). -/
@[ext]
structure State where
  a         : Byte
  x         : Byte
  y         : Byte
  sp        : Byte
  pc        : Addr
  n         : Bool
  v         : Bool
  b         : Bool
  d         : Bool
  i         : Bool
  z         : Bool
  c         : Bool
  halted    : Option (Byte × Addr)
  cart      : Cart
  ram       : Memory
  io        : Io
  video     : Video
  launch    : Launch
  inputs    : List (List HostCall)
  freeCount : Nat
  deriving DecidableEq, Repr

/-- Why no next state exists. -/
inductive Fault where
  /-- Raised by `step` alone, in a state whose `halted` is set: "no step exists" (R160, R452). SAFE: the spec defines no
  further step; only a reset by the host leaves the state. -/
  | halted (opcode : Byte) (addr : Addr)
  deriving DecidableEq, Repr

/-- Why an instruction has no meaning in this model. -/
inductive Refusal where
  /-- Raised by an arm of `exec` whose instruction has no meaning yet; no arm does. SAFE. -/
  | notModelled (mnemonic : String)
  deriving DecidableEq, Repr

/-- The same value for both players. -/
@[reducible] def PerPlayer.all {α : Type} (w : α) : PerPlayer α := ⟨w, w⟩

/-- The same value for all five objects. -/
@[reducible] def PerObject.all {α : Type} (w : α) : PerObject α := ⟨w, w, w, w, w⟩

/-- All fifteen latches clear. -/
@[reducible] def Collisions.clear : Collisions :=
  ⟨false, false, false, false, false, false, false, false, false, false, false, false, false, false, false⟩

/-- The video chip after reset (R78): everything 0 but the two input lines, which read released. -/
def Video.reset : Video where
  hpos := 0
  vpos := 0
  wsyncLatch := false
  waiting := false
  nusiz := .all 0
  colup := .all 0
  colupf := 0
  colubk := 0
  ctrlpf := 0
  refp := .all false
  pf0 := 0
  pf1 := 0
  pf2 := 0
  grpWritten := .all 0
  grpActive := .all 0
  grpPending := .all false
  enam := .all false
  enablWritten := false
  enablActive := false
  enablPending := false
  hmPending := .all 0
  hmApplied := .all 0
  vdelp := .all false
  vdelbl := false
  startPos := .all 0
  armed := .all false
  cx := .clear
  inpt4 := 0x80
  inpt5 := 0x80
  vblankReg := 0
  aud := ⟨0, 0, 0, 0, 0, 0⟩
  events := []

/-- The launch the model names: the values 00_scope.md section 5 suggests for the OPEN parameters (log entry 3). -/
def Launch.suggested : Launch where
  resetA := 0
  resetX := 0
  resetY := 0
  resetSp := 0xFF
  resetC := false
  resetZ := false
  resetD := false
  resetB := true
  resetV := false
  resetN := false
  resetBank := false
  resetRam := []
  resetTimerRaw := 0
  resetPrescale := .div1
  firstVisibleLine := 40

/-- The machine right after reset (R75 to R78, R481) with the suggested launch parameters and a cartridge of 4 KB that
lists no byte (log entries 3, 5, 6). Its reset vector reads 0x0000, so `pc` is 0x0000 (R481 step 5; `reset_isReset` in
Laws/Host.lean proves that this state is `hardReset` of itself). -/
def State.reset : State where
  a := 0
  x := 0
  y := 0
  sp := 0xFF
  pc := 0x0000
  n := false
  v := false
  b := true
  d := false
  i := true
  z := false
  c := false
  halted := none
  cart := { image := [], size := .kb4, bank := false }
  ram := []
  io := { swcha := 0xFF, swchb := 0xFF, timerRaw := 0, prescale := .div1, timerWritten := 0 }
  video := Video.reset
  launch := Launch.suggested
  inputs := []
  freeCount := 0

end Sys2Proof.Machine
end

