-- ==== Sys2Proof/Machine/Memory.lean ====
section
/-! DEFINITION. The byte stores (RAM and cartridge image) and the per-player, per-object records: read, write and the
canonical form. -/

namespace Sys2Proof.Machine

/-- What a cell that is not listed reads as (log entry 5). -/
def Memory.unlisted : Byte := 0x00

/-- The byte in cell `k` (R93, R101). -/
def Memory.read : Memory → Nat → Byte
  | [], _ => Memory.unlisted
  | (j, w) :: rest, k => if k = j then w else Memory.read rest k

/-- Cell `k` becomes `w` (R93), keeping the canonical form: writing the unlisted value removes the entry. -/
def Memory.write : Memory → Nat → Byte → Memory
  | [], k, w => if w = Memory.unlisted then [] else [(k, w)]
  | (j, u) :: rest, k, w =>
    if k < j then (if w = Memory.unlisted then (j, u) :: rest else (k, w) :: (j, u) :: rest)
    else if k = j then (if w = Memory.unlisted then rest else (k, w) :: rest)
    else (j, u) :: Memory.write rest k w

/-- The canonical form of a list whose keys are all at least `lo`. -/
def Memory.wfFrom : Nat → Memory → Bool
  | _, [] => true
  | lo, (j, w) :: rest => decide (lo ≤ j) && decide (w ≠ Memory.unlisted) && Memory.wfFrom (j + 1) rest

/-- The canonical form: keys strictly rising, no listed byte equal to the unlisted one. -/
def Memory.wf (m : Memory) : Bool := Memory.wfFrom 0 m

/-- Every key is below `n`. -/
def Memory.below (n : Nat) (m : Memory) : Bool := m.all fun e => decide (e.1 < n)

/-- `x[p]`. -/
def PerPlayer.get {α : Type} (w : PerPlayer α) : Player → α
  | .p0 => w.p0
  | .p1 => w.p1

/-- `x[p] <- u`. -/
def PerPlayer.set {α : Type} (w : PerPlayer α) (p : Player) (u : α) : PerPlayer α :=
  match p with
  | .p0 => { w with p0 := u }
  | .p1 => { w with p1 := u }

/-- `x[o]`. -/
def PerObject.get {α : Type} (w : PerObject α) : Obj → α
  | .p0 => w.p0
  | .p1 => w.p1
  | .m0 => w.m0
  | .m1 => w.m1
  | .bl => w.bl

/-- `x[o] <- u`. -/
def PerObject.set {α : Type} (w : PerObject α) (o : Obj) (u : α) : PerObject α :=
  match o with
  | .p0 => { w with p0 := u }
  | .p1 => { w with p1 := u }
  | .m0 => { w with m0 := u }
  | .m1 => { w with m1 := u }
  | .bl => { w with bl := u }

/-- The player as an object. -/
def Player.sprite : Player → Obj
  | .p0 => .p0
  | .p1 => .p1

/-- The missile of a player. -/
def Player.missile : Player → Obj
  | .p0 => .m0
  | .p1 => .m1

end Sys2Proof.Machine
end

