-- ==== Sys2Proof/Machine/Cart.lean ====
section
/-! DEFINITION. The cartridge store (20_memory.md section 3). -/

namespace Sys2Proof.Machine

/-- CART_SIZE (R36). -/
def CartSize.bytes : CartSize → Nat
  | .kb2 => 2048
  | .kb4 => 4096
  | .kb8 => 8192

/-- The image index a window offset reaches (R101). -/
def Cart.index (c : Cart) (off : BitVec 12) : Nat :=
  match c.size with
  | .kb8 => (if c.bank then 4096 else 0) + off.toNat
  | .kb4 => off.toNat
  | .kb2 => off.toNat % 2048

/-- `CartRead(off)` (R101). -/
def Cart.read (c : Cart) (off : BitVec 12) : Byte := c.image.read (c.index off)

/-- Whether an access to `off` is intercepted: a hot spot of an 8 KB image (R103, R104). -/
def Cart.hot (c : Cart) (off : BitVec 12) : Bool :=
  decide (c.size = .kb8) && (off == Config.hotSpot0 || off == Config.hotSpot1)

/-- The side effect of `CartSelect(off)` (R103): triggered by address, not data. -/
def Cart.select (c : Cart) (off : BitVec 12) : Cart :=
  if c.hot off then { c with bank := off == Config.hotSpot1 } else c

end Sys2Proof.Machine
end

