-- ==== Sys2Proof/Machine/IoTimer.lean ====
section
/-! DEFINITION. The I/O and timer chip (48_io_timer_chip.md), but for its RAM, which the bus reaches directly (R420). -/

namespace Sys2Proof.Machine

/-- `timer_shift` (R44). -/
def Prescale.shift : Prescale → Nat
  | .div1 => 0
  | .div8 => 3
  | .div64 => 6
  | .div1024 => 10

/-- The full prescaled range `256 * 2^timer_shift` of the counter (R427). -/
def Prescale.range (p : Prescale) : Nat := 256 <<< p.shift

/-- The INTIM value `(timer_raw >> timer_shift) mod 256` (R428). -/
def Io.intim (t : Io) : Byte := BitVec.ofNat 8 (t.timerRaw >>> t.prescale.shift)

/-- `IoRead(i)` (R421, R423): indices that hold no register read 0. -/
def ioRead (i : BitVec 5) (t : Io) : Byte :=
  match i.toNat with
  | 0x00 => t.swcha
  | 0x02 => t.swchb
  | 0x04 => t.intim
  | _ => 0

/-- `TimerWrite(k, v)` (R426), the prescale being the one the written address selects. -/
def timerWrite (p : Prescale) (w : Byte) (t : Io) : Io :=
  { t with prescale := p, timerWritten := w, timerRaw := w.toNat <<< p.shift }

/-- `IoWrite(i, v)` (R424): only the four timer addresses take a write. -/
def ioWrite (i : BitVec 5) (w : Byte) (t : Io) : Io :=
  match i.toNat with
  | 0x14 => timerWrite .div1 w t
  | 0x15 => timerWrite .div8 w t
  | 0x16 => timerWrite .div64 w t
  | 0x17 => timerWrite .div1024 w t
  | _ => t

/-- `IoClock(n)` (R429): `timer_raw <- (timer_raw - n) mod (256 << timer_shift)`. -/
def ioClock (n : Nat) (t : Io) : Io :=
  { t with timerRaw := (t.timerRaw + (t.prescale.range - n % t.prescale.range)) % t.prescale.range }

/-- A byte with bit `k` set to `level` and its other bits unchanged (R432). -/
def setBit (k : Nat) (level : Bool) (w : Byte) : Byte :=
  if level then w ||| (1#8 <<< k) else w &&& ~~~(1#8 <<< k)

/-- `SetLine(reg, bit, level)` (R432). DESIGN CHOICE (log entry 16): `bit` is any of 0..7, as R432 says, the bits 5, 4 and 2 of SWCHB
included, of which R425 says that they "hold their reset value 1". -/
def setLine (reg : InputReg) (bit : Nat) (level : Bool) (t : Io) : Io :=
  match reg with
  | .swcha => { t with swcha := setBit bit level t.swcha }
  | .swchb => { t with swchb := setBit bit level t.swchb }

/-- The SWCHA bit of a joystick direction (R425, R432). -/
def joystickBit : Player → Direction → Nat
  | .p0, .right => 7
  | .p0, .left => 6
  | .p0, .down => 5
  | .p0, .up => 4
  | .p1, .right => 3
  | .p1, .left => 2
  | .p1, .down => 1
  | .p1, .up => 0

/-- The SWCHB bit of a console switch (R425, R432). -/
def switchBit : ConsoleSwitch → Nat
  | .reset => 0
  | .select => 1
  | .colour => 3
  | .difficulty0 => 6
  | .difficulty1 => 7

end Sys2Proof.Machine
end

