-- ==== Sys2Proof/Machine/VideoRegs.lean ====
section
/-! DEFINITION. The video chip's register file (46_video_chip_registers.md): what a bus write and a bus read of it do. -/

namespace Sys2Proof.Machine

/-- The write registers of R311 by name. `unmapped` stands for 0x2D to 0x3F (R336). -/
inductive WriteReg where
  | vsync | vblank | wsync | rsync
  | nusiz (p : Player)
  | colup (p : Player)
  | colupf | colubk | ctrlpf
  | refp (p : Player)
  | pf0 | pf1 | pf2
  | res (o : Obj)
  | audc0 | audc1 | audf0 | audf1 | audv0 | audv1
  | grp (p : Player)
  | enam (p : Player)
  | enabl
  | hm (o : Obj)
  | vdelp (p : Player)
  | vdelbl
  | resmp (p : Player)
  | hmove | hmclr | cxclr
  | unmapped
  deriving DecidableEq, Repr

/-- The register numbers of R311. -/
def writeRegOf (r : BitVec 6) : WriteReg :=
  match r.toNat with
  | 0x00 => .vsync
  | 0x01 => .vblank
  | 0x02 => .wsync
  | 0x03 => .rsync
  | 0x04 => .nusiz .p0
  | 0x05 => .nusiz .p1
  | 0x06 => .colup .p0
  | 0x07 => .colup .p1
  | 0x08 => .colupf
  | 0x09 => .colubk
  | 0x0A => .ctrlpf
  | 0x0B => .refp .p0
  | 0x0C => .refp .p1
  | 0x0D => .pf0
  | 0x0E => .pf1
  | 0x0F => .pf2
  | 0x10 => .res .p0
  | 0x11 => .res .p1
  | 0x12 => .res .m0
  | 0x13 => .res .m1
  | 0x14 => .res .bl
  | 0x15 => .audc0
  | 0x16 => .audc1
  | 0x17 => .audf0
  | 0x18 => .audf1
  | 0x19 => .audv0
  | 0x1A => .audv1
  | 0x1B => .grp .p0
  | 0x1C => .grp .p1
  | 0x1D => .enam .p0
  | 0x1E => .enam .p1
  | 0x1F => .enabl
  | 0x20 => .hm .p0
  | 0x21 => .hm .p1
  | 0x22 => .hm .m0
  | 0x23 => .hm .m1
  | 0x24 => .hm .bl
  | 0x25 => .vdelp .p0
  | 0x26 => .vdelp .p1
  | 0x27 => .vdelbl
  | 0x28 => .resmp .p0
  | 0x29 => .resmp .p1
  | 0x2A => .hmove
  | 0x2B => .hmclr
  | 0x2C => .cxclr
  | _ => .unmapped

/-- The signed motion offset of a written byte: its upper nibble in two's complement, -8 to +7 (R330). -/
def motionOffset (w : Byte) : Int := (w.extractLsb' 4 4).toInt

/-- VSYNC (R312): every write with bit 1 set resets both counters and emits `refresh()`. -/
def writeVsync (w : Byte) (s : Video) : Video :=
  if w.getLsbD 1 then { s with hpos := 0, vpos := 0, events := .refresh :: s.events } else s

/-- GRPp (R327): deferred to the next line start when the player's vertical delay is on. -/
def writeGrp (p : Player) (w : Byte) (s : Video) : Video :=
  if s.vdelp.get p then
    { s with grpWritten := s.grpWritten.set p w, grpPending := s.grpPending.set p true }
  else { s with grpWritten := s.grpWritten.set p w, grpActive := s.grpActive.set p w }

/-- ENABL (R329): deferred to the next line start when the ball's vertical delay is on. -/
def writeEnabl (w : Byte) (s : Video) : Video :=
  if s.vdelbl then { s with enablWritten := w.getLsbD 1, enablPending := true }
  else { s with enablWritten := w.getLsbD 1, enablActive := w.getLsbD 1 }

/-- The effect of a write to a register, by name (R312 to R336). RSYNC, RESMP0, RESMP1 and the unmapped numbers have none. -/
def writeReg (q : WriteReg) (w : Byte) (s : Video) : Video :=
  match q with
  | .vsync => writeVsync w s
  | .vblank => { s with vblankReg := w }
  | .wsync => { s with wsyncLatch := true }
  | .rsync => s
  | .nusiz p => { s with nusiz := s.nusiz.set p w }
  | .colup p => { s with colup := s.colup.set p w }
  | .colupf => { s with colupf := w }
  | .colubk => { s with colubk := w }
  | .ctrlpf => { s with ctrlpf := w }
  | .refp p => { s with refp := s.refp.set p (w.getLsbD 3) }
  | .pf0 => { s with pf0 := w }
  | .pf1 => { s with pf1 := w }
  | .pf2 => { s with pf2 := w }
  | .res o => { s with armed := s.armed.set o true }
  | .audc0 => { s with aud := { s.aud with audc0 := w } }
  | .audc1 => { s with aud := { s.aud with audc1 := w } }
  | .audf0 => { s with aud := { s.aud with audf0 := w } }
  | .audf1 => { s with aud := { s.aud with audf1 := w } }
  | .audv0 => { s with aud := { s.aud with audv0 := w } }
  | .audv1 => { s with aud := { s.aud with audv1 := w } }
  | .grp p => writeGrp p w s
  | .enam p => { s with enam := s.enam.set p (w.getLsbD 1) }
  | .enabl => writeEnabl w s
  | .hm o => { s with hmPending := s.hmPending.set o (motionOffset w) }
  | .vdelp p => { s with vdelp := s.vdelp.set p (w.getLsbD 0) }
  | .vdelbl => { s with vdelbl := w.getLsbD 0 }
  | .resmp _ => s
  | .hmove => { s with hmApplied := s.hmPending }
  | .hmclr => { s with hmPending := .all 0, hmApplied := .all 0 }
  | .cxclr => { s with cx := .clear }
  | .unmapped => s

/-- `VideoWrite(r, v)` (R311). -/
def videoWrite (r : BitVec 6) (w : Byte) (s : Video) : Video := writeReg (writeRegOf r) w s

/-- A collision read register: the first latch in bit 7, the second in bit 6 (R349, R350). -/
def latchByte (hi lo : Bool) : Byte := (if hi then 0x80#8 else 0) ||| (if lo then 0x40#8 else 0)

/-- `VideoRead(r)` (R349): it changes no state. DEDUCED (log entry 15): BLPF stands alone in 0x06, and P0P1 and M0M1 share 0x07, as the
table of R349, R350 and the vectors of 95_test_vectors.md have it; D34 and C1 word it as the last pair alone in 0x07. -/
def videoRead (r : BitVec 6) (s : Video) : Byte :=
  match r.toNat with
  | 0x00 => latchByte s.cx.m0p1 s.cx.m0p0
  | 0x01 => latchByte s.cx.m1p0 s.cx.m1p1
  | 0x02 => latchByte s.cx.p0pf s.cx.p0bl
  | 0x03 => latchByte s.cx.p1pf s.cx.p1bl
  | 0x04 => latchByte s.cx.m0pf s.cx.m0bl
  | 0x05 => latchByte s.cx.m1pf s.cx.m1bl
  | 0x06 => latchByte s.cx.blpf false
  | 0x07 => latchByte s.cx.p0p1 s.cx.m0m1
  | 0x0C => s.inpt4
  | 0x0D => s.inpt5
  | _ => 0

/-- `SetFire(p, pressed)` (R352): bit 7 is the line, active low. -/
def setFire (p : Player) (pressed : Bool) (s : Video) : Video :=
  match p with
  | .p0 => { s with inpt4 := if pressed then 0x00 else 0x80 }
  | .p1 => { s with inpt5 := if pressed then 0x00 else 0x80 }

end Sys2Proof.Machine
end

