-- ==== Sys2Proof/Machine/Scanline.lean ====
section
/-! DEFINITION. The scanline engine (47_video_chip_scanline.md): the pixel tick, the object tests, the compositor, the
collision latches and the clock call. `fvl` is the launch parameter FIRST_VISIBLE_LINE (R373). -/

namespace Sys2Proof.Machine

/-- Bit `j` (0..19) of the playfield's left half (R324): PF0 bit 4 first, PF1 bit 7 first, PF2 bit 0 first. -/
def pfLeft (s : Video) (j : Nat) : Bool :=
  if j < 4 then s.pf0.getLsbD (4 + j)
  else if j < 12 then s.pf1.getLsbD (11 - j)
  else s.pf2.getLsbD (j - 12)

/-- `pf_pattern[j]` (R56, R324): the right half repeats the left, or reverses it when CTRLPF bit 0 is set. -/
def pfPattern (s : Video) (j : Nat) : Bool :=
  if j < 20 then pfLeft s j else if s.ctrlpf.getLsbD 0 then pfLeft s (39 - j) else pfLeft s (j - 20)

/-- `InBand()` (R370, R373). -/
def inBand (fvl : Nat) (s : Video) : Bool := decide (fvl ≤ s.vpos) && decide (s.vpos < fvl + Config.visibleLines)

/-- `Active()` (R370). -/
def active (fvl : Nat) (s : Video) : Bool := decide (Config.hblankClocks ≤ s.hpos) && inBand fvl s

/-- `Scale(p)` (R377). -/
def scale (s : Video) (p : Player) : Nat :=
  match ((s.nusiz.get p).extractLsb' 0 3).toNat with
  | 5 => 2
  | 7 => 4
  | _ => 1

/-- `hpos - Left(o)` (R378): no wrap, no clamp. -/
def distance (s : Video) (o : Obj) : Int := (s.hpos : Int) - ((s.startPos.get o : Int) - s.hmApplied.get o)

/-- `on.Pp` (R378). -/
def playerOn (s : Video) (p : Player) : Bool :=
  let d := distance s p.sprite
  if decide (0 ≤ d) && decide (d < 8 * (scale s p : Int)) then
    let k := d.toNat / scale s p
    if s.refp.get p then (s.grpActive.get p).getLsbD k else (s.grpActive.get p).getLsbD (7 - k)
  else false

/-- `1 << v[5:4]`: the width of a missile (NUSIZ) or of the ball (CTRLPF), R318, R321. -/
def barWidth (w : Byte) : Nat := 1 <<< (w.extractLsb' 4 2).toNat

/-- A solid run of `width` pixels from `Left(o)`, gated by an enable flag (R378). -/
def barOn (s : Video) (o : Obj) (enabled : Bool) (width : Nat) : Bool :=
  let d := distance s o
  enabled && decide (0 ≤ d) && decide (d < (width : Int))

/-- The six object categories (R379 to R381). -/
inductive Layer where
  | p0 | p1 | m0 | m1 | bl | pf
  deriving DecidableEq, Repr

/-- `OnFlags()` (R376, R378). -/
def layerOn (s : Video) : Layer → Bool
  | .p0 => playerOn s .p0
  | .p1 => playerOn s .p1
  | .m0 => barOn s .m0 s.enam.p0 (barWidth s.nusiz.p0)
  | .m1 => barOn s .m1 s.enam.p1 (barWidth s.nusiz.p1)
  | .bl => barOn s .bl s.enablActive (barWidth s.ctrlpf)
  | .pf => pfPattern s ((s.hpos - Config.hblankClocks) / 4)

/-- `Colour(k)` (R380). -/
def layerColour (s : Video) : Layer → Byte
  | .p0 => s.colup.p0
  | .m0 => s.colup.p0
  | .p1 => s.colup.p1
  | .m1 => s.colup.p1
  | .bl => s.colupf
  | .pf => s.colupf

/-- The priority order CTRLPF bit 2 selects (R379). -/
def priority (s : Video) : List Layer :=
  if s.ctrlpf.getLsbD 2 then [.pf, .bl, .p0, .m0, .p1, .m1] else [.p0, .m0, .p1, .m1, .bl, .pf]

/-- `Composite(on)` (R379): the colour of the first object that is on, else the background. -/
def composite (s : Video) : Byte :=
  match (priority s).find? (layerOn s) with
  | some k => layerColour s k
  | none => s.colubk

/-- `UpdateCollisions(on)` (R381): each latch is OR-ed with the overlap of its pair. -/
def updateCollisions (s : Video) : Collisions :=
  let on := layerOn s
  { m0p1 := s.cx.m0p1 || (on .m0 && on .p1)
    m0p0 := s.cx.m0p0 || (on .m0 && on .p0)
    m1p0 := s.cx.m1p0 || (on .m1 && on .p0)
    m1p1 := s.cx.m1p1 || (on .m1 && on .p1)
    p0pf := s.cx.p0pf || (on .p0 && on .pf)
    p0bl := s.cx.p0bl || (on .p0 && on .bl)
    p1pf := s.cx.p1pf || (on .p1 && on .pf)
    p1bl := s.cx.p1bl || (on .p1 && on .bl)
    m0pf := s.cx.m0pf || (on .m0 && on .pf)
    m0bl := s.cx.m0bl || (on .m0 && on .bl)
    m1pf := s.cx.m1pf || (on .m1 && on .pf)
    m1bl := s.cx.m1bl || (on .m1 && on .bl)
    blpf := s.cx.blpf || (on .bl && on .pf)
    p0p1 := s.cx.p0p1 || (on .p0 && on .p1)
    m0m1 := s.cx.m0m1 || (on .m0 && on .m1) }

/-- The rendering part of a tick: `set_pixel` and the collision latches, on active ticks only (R371, R386). -/
def renderPixel (fvl : Nat) (s : Video) : Video :=
  if active fvl s then
    { s with
      events := .setPixel (s.hpos - Config.hblankClocks) (s.vpos - fvl) (composite s) :: s.events
      cx := updateCollisions s }
  else s

/-- `CommitPending()` for player `p` (R375). -/
def commitShape (p : Player) (s : Video) : Video :=
  if s.grpPending.get p then
    { s with grpActive := s.grpActive.set p (s.grpWritten.get p), grpPending := s.grpPending.set p false }
  else s

/-- `CommitPending()` for the ball (R375). -/
def commitEnable (s : Video) : Video :=
  if s.enablPending then { s with enablActive := s.enablWritten, enablPending := false } else s

/-- `CommitPending()` (R375). -/
def commitPending (s : Video) : Video := commitEnable (commitShape .p1 (commitShape .p0 s))

/-- `LineWrap()` (R374): no `refresh()` at the end of a frame by count. -/
def lineWrap (s : Video) : Video :=
  commitPending
    { s with hpos := 0, vpos := if s.vpos + 1 = Config.totalLines then 0 else s.vpos + 1, wsyncLatch := false }

/-- The counting part of a tick (R371). -/
def advance (s : Video) : Video :=
  if s.hpos + 1 = Config.lineClocks then lineWrap s else { s with hpos := s.hpos + 1 }

/-- `Tick()` (R371): the pixel is rendered from the counters as they stand before the increment. -/
def tick (fvl : Nat) (s : Video) : Video := advance (renderPixel fvl s)

/-- `repeat k times: Tick()`. -/
def ticks (fvl : Nat) : Nat → Video → Video
  | 0, s => s
  | k + 1, s => ticks fvl k (tick fvl s)

/-- The lead of an object's position commit (R389). -/
def lead : Obj → Nat
  | .p0 => Config.playerLead
  | .p1 => Config.playerLead
  | .m0 => Config.missileBallLead
  | .m1 => Config.missileBallLead
  | .bl => Config.missileBallLead

/-- The start position of an object after `CommitPositions()` (R389): not reduced, not clamped. -/
def committedPos (s : Video) (o : Obj) : Nat := if s.armed.get o then s.hpos + lead o else s.startPos.get o

/-- `CommitPositions()` (R389). -/
def commitPositions (s : Video) : Video :=
  { s with
    startPos := ⟨committedPos s .p0, committedPos s .p1, committedPos s .m0, committedPos s .m1, committedPos s .bl⟩
    armed := .all false }

/-- `VideoClock(n)` (R388): the ticks, the armed position commits, then the transfer of the WSYNC latch (R390). -/
def videoClock (fvl : Nat) (n : Nat) (s : Video) : Video :=
  let s := commitPositions (ticks fvl (Config.pixelsPerCycle * n) s)
  { s with waiting := s.wsyncLatch }

end Sys2Proof.Machine
end

