-- ==== Sys2Proof/Machine/Ops.lean ====
section
/-! DEFINITION. The named operations every instruction is built from: the bus (20_memory.md), the status byte, the stack,
the clock call, and the two exceptional entries (BRK and IllegalOpcodeFault) with the return from the first. -/

namespace Sys2Proof.Machine

/-- What an address reaches (R92). -/
inductive Target where
  | cart  (off : BitVec 12)
  | video (reg : BitVec 6)
  | ram   (cell : BitVec 7)
  | io    (index : BitVec 5)
  deriving DecidableEq, Repr

/-- The address decode (R82, R86 to R92): bits 12, 7, 9 and the low bits; the others are ignored. -/
def target (a : Addr) : Target :=
  if a.getLsbD 12 then .cart (a.extractLsb' 0 12)
  else if !a.getLsbD 7 then .video (a.extractLsb' 0 6)
  else if !a.getLsbD 9 then .ram (a.extractLsb' 0 7)
  else .io (a.extractLsb' 0 5)

/-- The byte `BusRead(addr)` returns (R82): 0 at a hot spot (R104). -/
def busValue (a : Addr) (s : State) : Byte :=
  match target a with
  | .cart off => if s.cart.hot off then 0 else s.cart.read off
  | .video r => videoRead r s.video
  | .ram k => s.ram.read k.toNat
  | .io i => ioRead i s.io

/-- The side effect of a bus access of either kind: the bank select of a hot spot, "triggered by address, not data" (R83,
R103, R109). -/
def busTouch (a : Addr) (s : State) : State :=
  match target a with
  | .cart off => { s with cart := s.cart.select off }
  | _ => s

/-- `BusRead(addr)` (R82). -/
def busRead (a : Addr) (s : State) : Byte × State := (busValue a s, busTouch a s)

/-- `BusWrite(addr, v)` (R83): into the cartridge window only the bank select happens. -/
def busWrite (a : Addr) (w : Byte) (s : State) : State :=
  match target a with
  | .cart _ => busTouch a s
  | .video r => { s with video := videoWrite r w s.video }
  | .ram k => { s with ram := s.ram.write k.toNat w }
  | .io i => { s with io := ioWrite i w s.io }

/-- `BusRead16(addr)` (R84): low byte first, the high byte at `addr + 1` modulo 65536. -/
def busRead16 (a : Addr) (s : State) : Addr × State :=
  let lo := busRead a s
  let hi := busRead (a + 1) lo.2
  (wordOf hi.1 lo.1, hi.2)

/-- `BusClock(n)` (R85). -/
def busClock (n : Nat) (s : State) : State :=
  { s with video := videoClock s.launch.firstVisibleLine n s.video, io := ioClock n s.io }

/-- The end of a completed instruction: its cycle count is clocked into both chips after all its accesses (R112, R160). -/
def retire (n : Nat) (s : State) : Host.Outcome State Fault Refusal := .next (busClock n s)

/-- The status word `P = N||V||1||B||D||I||Z||C` (R25, R30). -/
def statusWord (s : State) : Byte :=
  BitVec.ofBool s.n ++ BitVec.ofBool s.v ++ 1#1 ++ BitVec.ofBool s.b ++
    BitVec.ofBool s.d ++ BitVec.ofBool s.i ++ BitVec.ofBool s.z ++ BitVec.ofBool s.c

/-- `StatusByteForPush()` (R280): bits 5 and 4 forced to 1. -/
def statusForPush (s : State) : Byte := statusWord s ||| 0x30#8

/-- `LoadStatus(v)` (R280): bit 5 is discarded. -/
def loadStatus (w : Byte) (s : State) : State :=
  { s with
    c := w.getLsbD 0, z := w.getLsbD 1, i := w.getLsbD 2, d := w.getLsbD 3
    b := w.getLsbD 4, v := w.getLsbD 6, n := w.getLsbD 7 }

/-- The stack cell `SP` names: `0x0100 + SP` (R23). -/
def stackAddr (sp : Byte) : Addr := Config.stackPage + sp.setWidth 16

/-- `Push(v)` (R178). -/
def push (w : Byte) (s : State) : State :=
  let s := busWrite (stackAddr s.sp) w s
  { s with sp := s.sp - 1 }

/-- `Pull()` (R179). -/
def pull (s : State) : Byte × State := busRead (stackAddr (s.sp + 1)) { s with sp := s.sp + 1 }

/-- Push a 16-bit address, high byte first (R106, R272, R293). -/
def pushAddr (w : Addr) (s : State) : State := push (loByte w) (push (hiByte w) s)

/-- Pull a 16-bit address, low byte first (R273, R294). -/
def pullAddr (s : State) : Addr × State :=
  let lo := pull s
  let hi := pull lo.2
  (wordOf hi.1 lo.1, hi.2)

/-- TAKING THE BREAK EXCEPTION (R293, R455): `B` set, the return address and the status byte pushed, `I` set, `PC` from the
vector at 0xFFFE. -/
def takeBreak (ret : Addr) (s : State) : State :=
  let s := pushAddr ret { s with b := true }
  let s := push (statusForPush s) s
  let vec := busRead16 Config.brkVector { s with i := true }
  { vec.2 with pc := vec.1 }

/-- THE RETURN from it (R294, R456): the status byte, then the address, with no `+ 1`. -/
def returnFromBreak (s : State) : State :=
  let p := pull s
  let r := pullAddr (loadStatus p.1 p.2)
  { r.2 with pc := r.1 }

/-- TAKING IllegalOpcodeFault (R162, R452): the CORE halts with the opcode and its address; nothing is pushed, no vector
is read and no cycle is clocked. -/
def takeIllegalOpcode (op : Byte) (addr : Addr) (s : State) : State := { s with halted := some (op, addr) }

end Sys2Proof.Machine
end

