-- ==== Sys2Proof/Machine/Flags.lean ====
section
/-! DEFINITION. The flag computations (R26 to R33, R180) and the arithmetic, compare, shift and rotate effects that set
flags (42_arithmetic.md, 43_logic_shift.md). -/

namespace Sys2Proof.Machine

/-- `SetNZ(v)` (R180). -/
def setNZ (w : Byte) (s : State) : State := { s with z := w == 0, n := w.getLsbD 7 }

/-- A carry as a 9-bit number. -/
def carryIn (c : Bool) : BitVec 9 := (BitVec.ofBool c).setWidth 9

/-- The binary sum of R221: 9 bits. -/
def binarySum (a m : Byte) (c : Bool) : BitVec 9 := a.setWidth 9 + m.setWidth 9 + carryIn c

/-- The binary difference of R223: 9 bits, `borrow = 1 - C`. -/
def binaryDiff (a m : Byte) (borrow : Bool) : BitVec 9 := a.setWidth 9 - m.setWidth 9 - carryIn borrow

/-- `V` of an addition: `((A ^ sum) & (M ^ sum))[7]` (R221, decision D7). -/
def overflowAdd (a m : Byte) (sum : BitVec 9) : Bool := ((a ^^^ sum.setWidth 8) &&& (m ^^^ sum.setWidth 8)).getLsbD 7

/-- `V` of a subtraction: `((A ^ M) & (A ^ diff))[7]` (R223). -/
def overflowSub (a m : Byte) (diff : BitVec 9) : Bool := ((a ^^^ m) &&& (a ^^^ diff.setWidth 8)).getLsbD 7

/-- The low decimal digit, bits 3..0 (R222). -/
def loDigit (w : Byte) : Nat := w.toNat % 16

/-- The high decimal digit, bits 7..4 (R222). -/
def hiDigit (w : Byte) : Nat := w.toNat / 16

/-- A packed-BCD byte: both digits 0 to 9. -/
def isBcd (w : Byte) : Bool := decide (loDigit w ≤ 9) && decide (hiDigit w ≤ 9)

/-- One digit of `DecimalAdd`: the digit and its carry out (R222). -/
def digitAdd (a m c : Nat) : Nat × Nat := if 9 < a + m + c then (a + m + c - 10, 1) else (a + m + c, 0)

/-- One digit of `DecimalSub`: the digit and its borrow out (R224). -/
def digitSub (a m b : Int) : Int × Int := if a - m - b < 0 then (a - m - b + 10, 1) else (a - m - b, 0)

/-- `DecimalAdd(A, M, C)` (R222). -/
def decimalAdd (a m : Byte) (c : Bool) : Byte × Bool :=
  let lo := digitAdd (loDigit a) (loDigit m) c.toNat
  let hi := digitAdd (hiDigit a) (hiDigit m) lo.2
  (BitVec.ofNat 8 (hi.1 % 16 * 16 + lo.1 % 16), hi.2 == 1)

/-- `DecimalSub(A, M, b)` (R224): the carry out is the complement of the borrow. -/
def decimalSub (a m : Byte) (borrow : Bool) : Byte × Bool :=
  let lo := digitSub (loDigit a) (loDigit m) borrow.toNat
  let hi := digitSub (hiDigit a) (hiDigit m) lo.2
  (BitVec.ofInt 8 (hi.1 % 16 * 16 + lo.1 % 16), hi.2 == 0)

/-- Write the result of ADC or SBC: `A <- R`, `C`, `V`, `SetNZ(R)` (R221, R223). -/
def setSum (r : Byte) (c v : Bool) (s : State) : State := setNZ r { s with a := r, c := c, v := v }

/-- A decimal ADC or SBC with a digit above 9 in `A` or `M`: result and carry are free values (R222, R224, U4, log entry 9); `Z`
and `N` are computed from the free result and `V` is as for any decimal operands. -/
def setFreeSum (v : Bool) (s : State) : State :=
  setSum (Config.freeByte s.freeCount) (Config.freeCarry s.freeCount) v { s with freeCount := s.freeCount + 1 }

/-- ADC (R221). -/
def adc (m : Byte) (s : State) : State :=
  let sum := binarySum s.a m s.c
  let v := overflowAdd s.a m sum
  if s.d then
    if isBcd s.a && isBcd m then setSum (decimalAdd s.a m s.c).1 (decimalAdd s.a m s.c).2 v s
    else setFreeSum v s
  else setSum (sum.setWidth 8) (sum.getLsbD 8) v s

/-- SBC (R223). -/
def sbc (m : Byte) (s : State) : State :=
  let diff := binaryDiff s.a m (!s.c)
  let v := overflowSub s.a m diff
  if s.d then
    if isBcd s.a && isBcd m then setSum (decimalSub s.a m (!s.c)).1 (decimalSub s.a m (!s.c)).2 v s
    else setFreeSum v s
  else setSum (diff.setWidth 8) (!diff.getLsbD 8) v s

/-- `Compare(R, M)` (R225). -/
def compare (r m : Byte) (s : State) : State :=
  let t := binaryDiff r m false
  setNZ (t.setWidth 8) { s with c := !t.getLsbD 8 }

/-- BIT (R244): `Z` from `A & M`, `N` and `V` from `M`. -/
def bitTest (m : Byte) (s : State) : State :=
  { s with z := (s.a &&& m) == 0, n := m.getLsbD 7, v := m.getLsbD 6 }

/-- The result of a read-modify-write instruction with its carry and `SetNZ` (R245 to R248). -/
def shifted (r : Byte) (c : Bool) (s : State) : Byte × State := (r, setNZ r { s with c := c })

/-- ASL (R245). -/
def asl (m : Byte) (s : State) : Byte × State := shifted (m <<< 1) (m.getLsbD 7) s

/-- LSR (R246). -/
def lsr (m : Byte) (s : State) : Byte × State := shifted (m >>> 1) (m.getLsbD 0) s

/-- ROL (R247): the old `C` enters bit 0. -/
def rol (m : Byte) (s : State) : Byte × State := shifted (m <<< 1 ||| (BitVec.ofBool s.c).setWidth 8) (m.getLsbD 7) s

/-- ROR (R248): the old `C` enters bit 7. -/
def ror (m : Byte) (s : State) : Byte × State :=
  shifted (m >>> 1 ||| (BitVec.ofBool s.c).setWidth 8 <<< 7) (m.getLsbD 0) s

/-- INC (R229): neither `C` nor `V`. -/
def incByte (m : Byte) (s : State) : Byte × State := (m + 1, setNZ (m + 1) s)

/-- DEC (R230). -/
def decByte (m : Byte) (s : State) : Byte × State := (m - 1, setNZ (m - 1) s)

/-- `A <- v; SetNZ(A)` (R201, R209, R210, R241 to R243, R282). -/
def setA (w : Byte) (s : State) : State := setNZ w { s with a := w }

/-- `X <- v; SetNZ(X)` (R202, R207, R211, R231, R233). -/
def setX (w : Byte) (s : State) : State := setNZ w { s with x := w }

/-- `Y <- v; SetNZ(Y)` (R203, R208, R232, R234). -/
def setY (w : Byte) (s : State) : State := setNZ w { s with y := w }

end Sys2Proof.Machine
end

