-- ==== Sys2Proof/Machine/Operands.lean ====
section
/-! DEFINITION. The addressing modes (40_cpu_step_and_addressing.md section 2) and the shapes of instruction built on them
(R177, R181). Every definition here runs in the state after the instruction's bytes were fetched, so `PC` is the address of
the next sequential instruction. -/

namespace Sys2Proof.Machine

/-- A zero-page address (R166). -/
def zeroPage (z : Byte) : Addr := z.setWidth 16

/-- The pointer at zero-page `z`: low byte at `z`, high byte at `z + 1` within page 0 (R173, R174). The two reads have no
side effect: no zero-page address is a hot spot (R109; `zeroPage_touch` in Laws/Bus.lean). -/
def zeroPagePointer (z : Byte) (s : State) : Addr :=
  wordOf (busValue (zeroPage (z + 1)) s) (busValue (zeroPage z) s)

/-- Whether two addresses lie on different pages: `a[15:8] ≠ b[15:8]` (R170, R174, R262). -/
def crosses (a b : Addr) : Bool := hiByte a != hiByte b

/-- The effective address `ea` of an operand (R165 to R174). An immediate's is its own operand byte (R165). -/
def effectiveAddress (o : Operand) (s : State) : Addr :=
  match o with
  | .imm _ => s.pc - 1
  | .zp b => zeroPage b
  | .zpx b => zeroPage (b + s.x)
  | .zpy b => zeroPage (b + s.y)
  | .abs a => a
  | .absx a => a + s.x.setWidth 16
  | .absy a => a + s.y.setWidth 16
  | .indx b => zeroPagePointer (b + s.x) s
  | .indy b => zeroPagePointer b s + s.y.setWidth 16

/-- `crossed` (R170, R171, R174): 0 for every mode that adds no index to a 16-bit base. -/
def pageCrossed (o : Operand) (s : State) : Bool :=
  match o with
  | .absx a => crosses (a + s.x.setWidth 16) a
  | .absy a => crosses (a + s.y.setWidth 16) a
  | .indy b => crosses (zeroPagePointer b s + s.y.setWidth 16) (zeroPagePointer b s)
  | .imm _ => false
  | .zp _ => false
  | .zpx _ => false
  | .zpy _ => false
  | .abs _ => false
  | .indx _ => false

/-- `M <- BusRead(ea)`; for an immediate the byte already fetched ("Equivalently `M <- Fetch()`", R165). -/
def readOperand (o : Operand) (s : State) : Byte × State :=
  match o with
  | .imm w => (w, s)
  | .zp b => busRead (effectiveAddress (.zp b) s) s
  | .zpx b => busRead (effectiveAddress (.zpx b) s) s
  | .zpy b => busRead (effectiveAddress (.zpy b) s) s
  | .abs a => busRead (effectiveAddress (.abs a) s) s
  | .absx a => busRead (effectiveAddress (.absx a) s) s
  | .absy a => busRead (effectiveAddress (.absy a) s) s
  | .indx b => busRead (effectiveAddress (.indx b) s) s
  | .indy b => busRead (effectiveAddress (.indy b) s) s

/-- A cycle count with the page-cross penalty of an opcode marked `+p` (R176). -/
def pageCycles (base : Nat) (crossed : Bool) : Nat := base + if crossed then 1 else 0

/-- A read-type instruction whose opcode is not marked `+p`: one read, then its effect (R177). -/
def readOp (base : Nat) (effect : Byte → State → State) (o : Operand) (s : State) :
    Host.Outcome State Fault Refusal :=
  retire base (effect (readOperand o s).1 (readOperand o s).2)

/-- A read-type instruction whose opcode is marked `+p` (R138, R176). -/
def readOpP (base : Nat) (effect : Byte → State → State) (o : Operand) (s : State) :
    Host.Outcome State Fault Refusal :=
  retire (pageCycles base (pageCrossed o s)) (effect (readOperand o s).1 (readOperand o s).2)

/-- A store: one write, no read (R204). -/
def storeOp (base : Nat) (value : Byte) (o : Operand) (s : State) : Host.Outcome State Fault Refusal :=
  retire base (busWrite (effectiveAddress o s) value s)

/-- A read-modify-write instruction: one read, one write to the same `ea` (R177, R229, R240). `modify` gives the result
and sets the flags. -/
def modifyOp (base : Nat) (modify : Byte → State → Byte × State) (o : Operand) (s : State) :
    Host.Outcome State Fault Refusal :=
  let m := readOperand o s
  let r := modify m.1 m.2
  retire base (busWrite (effectiveAddress o s) r.1 r.2)

/-- The accumulator form of a shift or rotate: no bus access (R164, R240). -/
def accOp (base : Nat) (modify : Byte → State → Byte × State) (s : State) : Host.Outcome State Fault Refusal :=
  let r := modify s.a s
  retire base { r.2 with a := r.1 }

/-- `(nxt + d) mod 65536` with `d = sext_8(b1)` (R175, R262). -/
def branchTarget (nxt : Addr) (d : Byte) : Addr := nxt + d.signExtend 16

/-- `Branch(cond)` (R262): `PC` holds `nxt`, the address of the next sequential instruction. -/
def branch (cond : Bool) (d : Byte) (s : State) : Host.Outcome State Fault Refusal :=
  if cond then
    retire (if crosses (branchTarget s.pc d) s.pc then 4 else 3) { s with pc := branchTarget s.pc d }
  else retire 2 s

end Sys2Proof.Machine
end

