-- ==== Sys2Proof/Machine/Arithmetic.lean ====
section
/-! DEFINITION. Meanings: arithmetic, compare, increment and decrement (42_arithmetic.md). The number in parentheses is the opcode's base
cycle count and page-penalty mark from R138. -/

namespace Sys2Proof.Machine

/-- CMP's effect (R226). -/
def compareA (m : Byte) (s : State) : State := compare s.a m s

/-- CPX's effect (R227). -/
def compareX (m : Byte) (s : State) : State := compare s.x m s

/-- CPY's effect (R228). -/
def compareY (m : Byte) (s : State) : State := compare s.y m s

/-- ADC #v, 0x69 (2): R221, R165. -/
def execAdcImm (v : Byte) (s : State) : Host.Outcome State Fault Refusal :=
  readOp 2 adc (.imm v) s

/-- ADC b, 0x65 (3): R221, R166. -/
def execAdcZp (b : Byte) (s : State) : Host.Outcome State Fault Refusal :=
  readOp 3 adc (.zp b) s

/-- ADC b,X, 0x75 (4): R221, R167. -/
def execAdcZpX (b : Byte) (s : State) : Host.Outcome State Fault Refusal :=
  readOp 4 adc (.zpx b) s

/-- ADC a, 0x6D (4): R221, R169. -/
def execAdcAbs (a : Addr) (s : State) : Host.Outcome State Fault Refusal :=
  readOp 4 adc (.abs a) s

/-- ADC a,X, 0x7D (4+p): R221, R170. -/
def execAdcAbsX (a : Addr) (s : State) : Host.Outcome State Fault Refusal :=
  readOpP 4 adc (.absx a) s

/-- ADC a,Y, 0x79 (4+p): R221, R171. -/
def execAdcAbsY (a : Addr) (s : State) : Host.Outcome State Fault Refusal :=
  readOpP 4 adc (.absy a) s

/-- ADC (b,X), 0x61 (6): R221, R173. -/
def execAdcIndX (b : Byte) (s : State) : Host.Outcome State Fault Refusal :=
  readOp 6 adc (.indx b) s

/-- ADC (b),Y, 0x71 (5+p): R221, R174. -/
def execAdcIndY (b : Byte) (s : State) : Host.Outcome State Fault Refusal :=
  readOpP 5 adc (.indy b) s

/-- SBC #v, 0xE9 (2): R223, R165. -/
def execSbcImm (v : Byte) (s : State) : Host.Outcome State Fault Refusal :=
  readOp 2 sbc (.imm v) s

/-- SBC b, 0xE5 (3): R223, R166. -/
def execSbcZp (b : Byte) (s : State) : Host.Outcome State Fault Refusal :=
  readOp 3 sbc (.zp b) s

/-- SBC b,X, 0xF5 (4): R223, R167. -/
def execSbcZpX (b : Byte) (s : State) : Host.Outcome State Fault Refusal :=
  readOp 4 sbc (.zpx b) s

/-- SBC a, 0xED (4): R223, R169. -/
def execSbcAbs (a : Addr) (s : State) : Host.Outcome State Fault Refusal :=
  readOp 4 sbc (.abs a) s

/-- SBC a,X, 0xFD (4+p): R223, R170. -/
def execSbcAbsX (a : Addr) (s : State) : Host.Outcome State Fault Refusal :=
  readOpP 4 sbc (.absx a) s

/-- SBC a,Y, 0xF9 (4+p): R223, R171. -/
def execSbcAbsY (a : Addr) (s : State) : Host.Outcome State Fault Refusal :=
  readOpP 4 sbc (.absy a) s

/-- SBC (b,X), 0xE1 (6): R223, R173. -/
def execSbcIndX (b : Byte) (s : State) : Host.Outcome State Fault Refusal :=
  readOp 6 sbc (.indx b) s

/-- SBC (b),Y, 0xF1 (5+p): R223, R174. -/
def execSbcIndY (b : Byte) (s : State) : Host.Outcome State Fault Refusal :=
  readOpP 5 sbc (.indy b) s

/-- CMP #v, 0xC9 (2): R226, R165. -/
def execCmpImm (v : Byte) (s : State) : Host.Outcome State Fault Refusal :=
  readOp 2 compareA (.imm v) s

/-- CMP b, 0xC5 (3): R226, R166. -/
def execCmpZp (b : Byte) (s : State) : Host.Outcome State Fault Refusal :=
  readOp 3 compareA (.zp b) s

/-- CMP b,X, 0xD5 (4): R226, R167. -/
def execCmpZpX (b : Byte) (s : State) : Host.Outcome State Fault Refusal :=
  readOp 4 compareA (.zpx b) s

/-- CMP a, 0xCD (4): R226, R169. -/
def execCmpAbs (a : Addr) (s : State) : Host.Outcome State Fault Refusal :=
  readOp 4 compareA (.abs a) s

/-- CMP a,X, 0xDD (4+p): R226, R170. -/
def execCmpAbsX (a : Addr) (s : State) : Host.Outcome State Fault Refusal :=
  readOpP 4 compareA (.absx a) s

/-- CMP a,Y, 0xD9 (4+p): R226, R171. -/
def execCmpAbsY (a : Addr) (s : State) : Host.Outcome State Fault Refusal :=
  readOpP 4 compareA (.absy a) s

/-- CMP (b,X), 0xC1 (6): R226, R173. -/
def execCmpIndX (b : Byte) (s : State) : Host.Outcome State Fault Refusal :=
  readOp 6 compareA (.indx b) s

/-- CMP (b),Y, 0xD1 (5+p): R226, R174. -/
def execCmpIndY (b : Byte) (s : State) : Host.Outcome State Fault Refusal :=
  readOpP 5 compareA (.indy b) s

/-- CPX #v, 0xE0 (2): R227, R165. -/
def execCpxImm (v : Byte) (s : State) : Host.Outcome State Fault Refusal :=
  readOp 2 compareX (.imm v) s

/-- CPX b, 0xE4 (3): R227, R166. -/
def execCpxZp (b : Byte) (s : State) : Host.Outcome State Fault Refusal :=
  readOp 3 compareX (.zp b) s

/-- CPX a, 0xEC (4): R227, R169. -/
def execCpxAbs (a : Addr) (s : State) : Host.Outcome State Fault Refusal :=
  readOp 4 compareX (.abs a) s

/-- CPY #v, 0xC0 (2): R228, R165. -/
def execCpyImm (v : Byte) (s : State) : Host.Outcome State Fault Refusal :=
  readOp 2 compareY (.imm v) s

/-- CPY b, 0xC4 (3): R228, R166. -/
def execCpyZp (b : Byte) (s : State) : Host.Outcome State Fault Refusal :=
  readOp 3 compareY (.zp b) s

/-- CPY a, 0xCC (4): R228, R169. -/
def execCpyAbs (a : Addr) (s : State) : Host.Outcome State Fault Refusal :=
  readOp 4 compareY (.abs a) s

/-- INC b, 0xE6 (5): R229, R166. -/
def execIncZp (b : Byte) (s : State) : Host.Outcome State Fault Refusal :=
  modifyOp 5 incByte (.zp b) s

/-- INC b,X, 0xF6 (6): R229, R167. -/
def execIncZpX (b : Byte) (s : State) : Host.Outcome State Fault Refusal :=
  modifyOp 6 incByte (.zpx b) s

/-- INC a, 0xEE (6): R229, R169. -/
def execIncAbs (a : Addr) (s : State) : Host.Outcome State Fault Refusal :=
  modifyOp 6 incByte (.abs a) s

/-- INC a,X, 0xFE (7): R229, R170. -/
def execIncAbsX (a : Addr) (s : State) : Host.Outcome State Fault Refusal :=
  modifyOp 7 incByte (.absx a) s

/-- DEC b, 0xC6 (5): R230, R166. -/
def execDecZp (b : Byte) (s : State) : Host.Outcome State Fault Refusal :=
  modifyOp 5 decByte (.zp b) s

/-- DEC b,X, 0xD6 (6): R230, R167. -/
def execDecZpX (b : Byte) (s : State) : Host.Outcome State Fault Refusal :=
  modifyOp 6 decByte (.zpx b) s

/-- DEC a, 0xCE (6): R230, R169. -/
def execDecAbs (a : Addr) (s : State) : Host.Outcome State Fault Refusal :=
  modifyOp 6 decByte (.abs a) s

/-- DEC a,X, 0xDE (7): R230, R170. -/
def execDecAbsX (a : Addr) (s : State) : Host.Outcome State Fault Refusal :=
  modifyOp 7 decByte (.absx a) s

/-- INX, 0xE8 (2): R231, R164. -/
def execInx (s : State) : Host.Outcome State Fault Refusal :=
  retire 2 (setX (s.x + 1) s)

/-- INY, 0xC8 (2): R232, R164. -/
def execIny (s : State) : Host.Outcome State Fault Refusal :=
  retire 2 (setY (s.y + 1) s)

/-- DEX, 0xCA (2): R233, R164. -/
def execDex (s : State) : Host.Outcome State Fault Refusal :=
  retire 2 (setX (s.x - 1) s)

/-- DEY, 0x88 (2): R234, R164. -/
def execDey (s : State) : Host.Outcome State Fault Refusal :=
  retire 2 (setY (s.y - 1) s)

end Sys2Proof.Machine
end

