-- ==== Sys2Proof/Machine/ControlFlow.lean ====
section
/-! DEFINITION. Meanings: branches, jumps and subroutine calls (44_control_flow.md). `PC` holds the address of the next sequential
instruction when a meaning runs. The number in parentheses is the opcode's base
cycle count and page-penalty mark from R138. -/

namespace Sys2Proof.Machine

/-- BCC d, 0x90 (2): R263, R175. -/
def execBcc (d : Byte) (s : State) : Host.Outcome State Fault Refusal :=
  branch (!s.c) d s

/-- BCS d, 0xB0 (2): R264, R175. -/
def execBcs (d : Byte) (s : State) : Host.Outcome State Fault Refusal :=
  branch s.c d s

/-- BEQ d, 0xF0 (2): R265, R175. -/
def execBeq (d : Byte) (s : State) : Host.Outcome State Fault Refusal :=
  branch s.z d s

/-- BMI d, 0x30 (2): R266, R175. -/
def execBmi (d : Byte) (s : State) : Host.Outcome State Fault Refusal :=
  branch s.n d s

/-- BNE d, 0xD0 (2): R267, R175. -/
def execBne (d : Byte) (s : State) : Host.Outcome State Fault Refusal :=
  branch (!s.z) d s

/-- BPL d, 0x10 (2): R268, R175. -/
def execBpl (d : Byte) (s : State) : Host.Outcome State Fault Refusal :=
  branch (!s.n) d s

/-- BVC d, 0x50 (2): R269, R175. -/
def execBvc (d : Byte) (s : State) : Host.Outcome State Fault Refusal :=
  branch (!s.v) d s

/-- BVS d, 0x70 (2): R270, R175. -/
def execBvs (d : Byte) (s : State) : Host.Outcome State Fault Refusal :=
  branch s.v d s

/-- JMP a, 0x4C (3): R271, R169. -/
def execJmpAbs (a : Addr) (s : State) : Host.Outcome State Fault Refusal :=
  retire 3 { s with pc := a }

/-- JMP (a), 0x6C (5): R271, R172. -/
def execJmpInd (a : Addr) (s : State) : Host.Outcome State Fault Refusal :=
  retire 5 { (busRead16 a s).2 with pc := (busRead16 a s).1 }

/-- JSR a, 0x20 (6): R272, R169: `PC - 1` is the address of the JSR's last byte. -/
def execJsr (a : Addr) (s : State) : Host.Outcome State Fault Refusal :=
  retire 6 { pushAddr (s.pc - 1) s with pc := a }

/-- RTS, 0x60 (6): R273, R164; the pulled address plus 1. -/
def execRts (s : State) : Host.Outcome State Fault Refusal :=
  retire 6 { (pullAddr s).2 with pc := (pullAddr s).1 + 1 }

end Sys2Proof.Machine
end

