-- ==== Sys2Proof/Machine/LoadStore.lean ====
section
/-! DEFINITION. Meanings: loads, stores and transfers (41_load_store_transfer.md). The number in parentheses is the opcode's base
cycle count and page-penalty mark from R138. -/

namespace Sys2Proof.Machine

/-- LDA #v, 0xA9 (2): R201, R165. -/
def execLdaImm (v : Byte) (s : State) : Host.Outcome State Fault Refusal :=
  readOp 2 setA (.imm v) s

/-- LDA b, 0xA5 (3): R201, R166. -/
def execLdaZp (b : Byte) (s : State) : Host.Outcome State Fault Refusal :=
  readOp 3 setA (.zp b) s

/-- LDA b,X, 0xB5 (4): R201, R167. -/
def execLdaZpX (b : Byte) (s : State) : Host.Outcome State Fault Refusal :=
  readOp 4 setA (.zpx b) s

/-- LDA a, 0xAD (4): R201, R169. -/
def execLdaAbs (a : Addr) (s : State) : Host.Outcome State Fault Refusal :=
  readOp 4 setA (.abs a) s

/-- LDA a,X, 0xBD (4+p): R201, R170. -/
def execLdaAbsX (a : Addr) (s : State) : Host.Outcome State Fault Refusal :=
  readOpP 4 setA (.absx a) s

/-- LDA a,Y, 0xB9 (4+p): R201, R171. -/
def execLdaAbsY (a : Addr) (s : State) : Host.Outcome State Fault Refusal :=
  readOpP 4 setA (.absy a) s

/-- LDA (b,X), 0xA1 (6): R201, R173. -/
def execLdaIndX (b : Byte) (s : State) : Host.Outcome State Fault Refusal :=
  readOp 6 setA (.indx b) s

/-- LDA (b),Y, 0xB1 (5+p): R201, R174. -/
def execLdaIndY (b : Byte) (s : State) : Host.Outcome State Fault Refusal :=
  readOpP 5 setA (.indy b) s

/-- LDX #v, 0xA2 (2): R202, R165. -/
def execLdxImm (v : Byte) (s : State) : Host.Outcome State Fault Refusal :=
  readOp 2 setX (.imm v) s

/-- LDX b, 0xA6 (3): R202, R166. -/
def execLdxZp (b : Byte) (s : State) : Host.Outcome State Fault Refusal :=
  readOp 3 setX (.zp b) s

/-- LDX b,Y, 0xB6 (4): R202, R168. -/
def execLdxZpY (b : Byte) (s : State) : Host.Outcome State Fault Refusal :=
  readOp 4 setX (.zpy b) s

/-- LDX a, 0xAE (4): R202, R169. -/
def execLdxAbs (a : Addr) (s : State) : Host.Outcome State Fault Refusal :=
  readOp 4 setX (.abs a) s

/-- LDX a,Y, 0xBE (4+p): R202, R171. -/
def execLdxAbsY (a : Addr) (s : State) : Host.Outcome State Fault Refusal :=
  readOpP 4 setX (.absy a) s

/-- LDY #v, 0xA0 (2): R203, R165. -/
def execLdyImm (v : Byte) (s : State) : Host.Outcome State Fault Refusal :=
  readOp 2 setY (.imm v) s

/-- LDY b, 0xA4 (3): R203, R166. -/
def execLdyZp (b : Byte) (s : State) : Host.Outcome State Fault Refusal :=
  readOp 3 setY (.zp b) s

/-- LDY b,X, 0xB4 (4): R203, R167. -/
def execLdyZpX (b : Byte) (s : State) : Host.Outcome State Fault Refusal :=
  readOp 4 setY (.zpx b) s

/-- LDY a, 0xAC (4): R203, R169. -/
def execLdyAbs (a : Addr) (s : State) : Host.Outcome State Fault Refusal :=
  readOp 4 setY (.abs a) s

/-- LDY a,X, 0xBC (4+p): R203, R170. -/
def execLdyAbsX (a : Addr) (s : State) : Host.Outcome State Fault Refusal :=
  readOpP 4 setY (.absx a) s

/-- STA b, 0x85 (3): R204, R166. -/
def execStaZp (b : Byte) (s : State) : Host.Outcome State Fault Refusal :=
  storeOp 3 s.a (.zp b) s

/-- STA b,X, 0x95 (4): R204, R167. -/
def execStaZpX (b : Byte) (s : State) : Host.Outcome State Fault Refusal :=
  storeOp 4 s.a (.zpx b) s

/-- STA a, 0x8D (4): R204, R169. -/
def execStaAbs (a : Addr) (s : State) : Host.Outcome State Fault Refusal :=
  storeOp 4 s.a (.abs a) s

/-- STA a,X, 0x9D (5): R204, R170. -/
def execStaAbsX (a : Addr) (s : State) : Host.Outcome State Fault Refusal :=
  storeOp 5 s.a (.absx a) s

/-- STA a,Y, 0x99 (5): R204, R171. -/
def execStaAbsY (a : Addr) (s : State) : Host.Outcome State Fault Refusal :=
  storeOp 5 s.a (.absy a) s

/-- STA (b,X), 0x81 (6): R204, R173. -/
def execStaIndX (b : Byte) (s : State) : Host.Outcome State Fault Refusal :=
  storeOp 6 s.a (.indx b) s

/-- STA (b),Y, 0x91 (6): R204, R174. -/
def execStaIndY (b : Byte) (s : State) : Host.Outcome State Fault Refusal :=
  storeOp 6 s.a (.indy b) s

/-- STX b, 0x86 (3): R205, R166. -/
def execStxZp (b : Byte) (s : State) : Host.Outcome State Fault Refusal :=
  storeOp 3 s.x (.zp b) s

/-- STX b,Y, 0x96 (4): R205, R168. -/
def execStxZpY (b : Byte) (s : State) : Host.Outcome State Fault Refusal :=
  storeOp 4 s.x (.zpy b) s

/-- STX a, 0x8E (4): R205, R169. -/
def execStxAbs (a : Addr) (s : State) : Host.Outcome State Fault Refusal :=
  storeOp 4 s.x (.abs a) s

/-- STY b, 0x84 (3): R206, R166. -/
def execStyZp (b : Byte) (s : State) : Host.Outcome State Fault Refusal :=
  storeOp 3 s.y (.zp b) s

/-- STY b,X, 0x94 (4): R206, R167. -/
def execStyZpX (b : Byte) (s : State) : Host.Outcome State Fault Refusal :=
  storeOp 4 s.y (.zpx b) s

/-- STY a, 0x8C (4): R206, R169. -/
def execStyAbs (a : Addr) (s : State) : Host.Outcome State Fault Refusal :=
  storeOp 4 s.y (.abs a) s

/-- TAX, 0xAA (2): R207, R164. -/
def execTax (s : State) : Host.Outcome State Fault Refusal :=
  retire 2 (setX s.a s)

/-- TAY, 0xA8 (2): R208, R164. -/
def execTay (s : State) : Host.Outcome State Fault Refusal :=
  retire 2 (setY s.a s)

/-- TXA, 0x8A (2): R209, R164. -/
def execTxa (s : State) : Host.Outcome State Fault Refusal :=
  retire 2 (setA s.x s)

/-- TYA, 0x98 (2): R210, R164. -/
def execTya (s : State) : Host.Outcome State Fault Refusal :=
  retire 2 (setA s.y s)

/-- TSX, 0xBA (2): R211, R164. -/
def execTsx (s : State) : Host.Outcome State Fault Refusal :=
  retire 2 (setX s.sp s)

/-- TXS, 0x9A (2): R212, R164; no flag. -/
def execTxs (s : State) : Host.Outcome State Fault Refusal :=
  retire 2 { s with sp := s.x }

end Sys2Proof.Machine
end

