-- ==== Sys2Proof/Machine/Logic.lean ====
section
/-! DEFINITION. Meanings: logic, bit test, shifts and rotates (43_logic_shift.md). The number in parentheses is the opcode's base
cycle count and page-penalty mark from R138. -/

namespace Sys2Proof.Machine

/-- AND's effect (R241). -/
def andA (m : Byte) (s : State) : State := setA (s.a &&& m) s

/-- ORA's effect (R242). -/
def oraA (m : Byte) (s : State) : State := setA (s.a ||| m) s

/-- EOR's effect (R243). -/
def eorA (m : Byte) (s : State) : State := setA (s.a ^^^ m) s

/-- AND #v, 0x29 (2): R241, R165. -/
def execAndImm (v : Byte) (s : State) : Host.Outcome State Fault Refusal :=
  readOp 2 andA (.imm v) s

/-- AND b, 0x25 (3): R241, R166. -/
def execAndZp (b : Byte) (s : State) : Host.Outcome State Fault Refusal :=
  readOp 3 andA (.zp b) s

/-- AND b,X, 0x35 (4): R241, R167. -/
def execAndZpX (b : Byte) (s : State) : Host.Outcome State Fault Refusal :=
  readOp 4 andA (.zpx b) s

/-- AND a, 0x2D (4): R241, R169. -/
def execAndAbs (a : Addr) (s : State) : Host.Outcome State Fault Refusal :=
  readOp 4 andA (.abs a) s

/-- AND a,X, 0x3D (4+p): R241, R170. -/
def execAndAbsX (a : Addr) (s : State) : Host.Outcome State Fault Refusal :=
  readOpP 4 andA (.absx a) s

/-- AND a,Y, 0x39 (4+p): R241, R171. -/
def execAndAbsY (a : Addr) (s : State) : Host.Outcome State Fault Refusal :=
  readOpP 4 andA (.absy a) s

/-- AND (b,X), 0x21 (6): R241, R173. -/
def execAndIndX (b : Byte) (s : State) : Host.Outcome State Fault Refusal :=
  readOp 6 andA (.indx b) s

/-- AND (b),Y, 0x31 (5+p): R241, R174. -/
def execAndIndY (b : Byte) (s : State) : Host.Outcome State Fault Refusal :=
  readOpP 5 andA (.indy b) s

/-- ORA #v, 0x09 (2): R242, R165. -/
def execOraImm (v : Byte) (s : State) : Host.Outcome State Fault Refusal :=
  readOp 2 oraA (.imm v) s

/-- ORA b, 0x05 (3): R242, R166. -/
def execOraZp (b : Byte) (s : State) : Host.Outcome State Fault Refusal :=
  readOp 3 oraA (.zp b) s

/-- ORA b,X, 0x15 (4): R242, R167. -/
def execOraZpX (b : Byte) (s : State) : Host.Outcome State Fault Refusal :=
  readOp 4 oraA (.zpx b) s

/-- ORA a, 0x0D (4): R242, R169. -/
def execOraAbs (a : Addr) (s : State) : Host.Outcome State Fault Refusal :=
  readOp 4 oraA (.abs a) s

/-- ORA a,X, 0x1D (4+p): R242, R170. -/
def execOraAbsX (a : Addr) (s : State) : Host.Outcome State Fault Refusal :=
  readOpP 4 oraA (.absx a) s

/-- ORA a,Y, 0x19 (4+p): R242, R171. -/
def execOraAbsY (a : Addr) (s : State) : Host.Outcome State Fault Refusal :=
  readOpP 4 oraA (.absy a) s

/-- ORA (b,X), 0x01 (6): R242, R173. -/
def execOraIndX (b : Byte) (s : State) : Host.Outcome State Fault Refusal :=
  readOp 6 oraA (.indx b) s

/-- ORA (b),Y, 0x11 (5+p): R242, R174. -/
def execOraIndY (b : Byte) (s : State) : Host.Outcome State Fault Refusal :=
  readOpP 5 oraA (.indy b) s

/-- EOR #v, 0x49 (2): R243, R165. -/
def execEorImm (v : Byte) (s : State) : Host.Outcome State Fault Refusal :=
  readOp 2 eorA (.imm v) s

/-- EOR b, 0x45 (3): R243, R166. -/
def execEorZp (b : Byte) (s : State) : Host.Outcome State Fault Refusal :=
  readOp 3 eorA (.zp b) s

/-- EOR b,X, 0x55 (4): R243, R167. -/
def execEorZpX (b : Byte) (s : State) : Host.Outcome State Fault Refusal :=
  readOp 4 eorA (.zpx b) s

/-- EOR a, 0x4D (4): R243, R169. -/
def execEorAbs (a : Addr) (s : State) : Host.Outcome State Fault Refusal :=
  readOp 4 eorA (.abs a) s

/-- EOR a,X, 0x5D (4+p): R243, R170. -/
def execEorAbsX (a : Addr) (s : State) : Host.Outcome State Fault Refusal :=
  readOpP 4 eorA (.absx a) s

/-- EOR a,Y, 0x59 (4+p): R243, R171. -/
def execEorAbsY (a : Addr) (s : State) : Host.Outcome State Fault Refusal :=
  readOpP 4 eorA (.absy a) s

/-- EOR (b,X), 0x41 (6): R243, R173. -/
def execEorIndX (b : Byte) (s : State) : Host.Outcome State Fault Refusal :=
  readOp 6 eorA (.indx b) s

/-- EOR (b),Y, 0x51 (5+p): R243, R174. -/
def execEorIndY (b : Byte) (s : State) : Host.Outcome State Fault Refusal :=
  readOpP 5 eorA (.indy b) s

/-- BIT b, 0x24 (3): R244, R166. -/
def execBitZp (b : Byte) (s : State) : Host.Outcome State Fault Refusal :=
  readOp 3 bitTest (.zp b) s

/-- BIT a, 0x2C (4): R244, R169. -/
def execBitAbs (a : Addr) (s : State) : Host.Outcome State Fault Refusal :=
  readOp 4 bitTest (.abs a) s

/-- ASL b, 0x06 (5): R245, R166. -/
def execAslZp (b : Byte) (s : State) : Host.Outcome State Fault Refusal :=
  modifyOp 5 asl (.zp b) s

/-- ASL b,X, 0x16 (6): R245, R167. -/
def execAslZpX (b : Byte) (s : State) : Host.Outcome State Fault Refusal :=
  modifyOp 6 asl (.zpx b) s

/-- ASL a, 0x0E (6): R245, R169. -/
def execAslAbs (a : Addr) (s : State) : Host.Outcome State Fault Refusal :=
  modifyOp 6 asl (.abs a) s

/-- ASL a,X, 0x1E (7): R245, R170. -/
def execAslAbsX (a : Addr) (s : State) : Host.Outcome State Fault Refusal :=
  modifyOp 7 asl (.absx a) s

/-- ASL A, 0x0A (2): R245, R164. -/
def execAslAcc (s : State) : Host.Outcome State Fault Refusal :=
  accOp 2 asl s

/-- LSR b, 0x46 (5): R246, R166. -/
def execLsrZp (b : Byte) (s : State) : Host.Outcome State Fault Refusal :=
  modifyOp 5 lsr (.zp b) s

/-- LSR b,X, 0x56 (6): R246, R167. -/
def execLsrZpX (b : Byte) (s : State) : Host.Outcome State Fault Refusal :=
  modifyOp 6 lsr (.zpx b) s

/-- LSR a, 0x4E (6): R246, R169. -/
def execLsrAbs (a : Addr) (s : State) : Host.Outcome State Fault Refusal :=
  modifyOp 6 lsr (.abs a) s

/-- LSR a,X, 0x5E (7): R246, R170. -/
def execLsrAbsX (a : Addr) (s : State) : Host.Outcome State Fault Refusal :=
  modifyOp 7 lsr (.absx a) s

/-- LSR A, 0x4A (2): R246, R164. -/
def execLsrAcc (s : State) : Host.Outcome State Fault Refusal :=
  accOp 2 lsr s

/-- ROL b, 0x26 (5): R247, R166. -/
def execRolZp (b : Byte) (s : State) : Host.Outcome State Fault Refusal :=
  modifyOp 5 rol (.zp b) s

/-- ROL b,X, 0x36 (6): R247, R167. -/
def execRolZpX (b : Byte) (s : State) : Host.Outcome State Fault Refusal :=
  modifyOp 6 rol (.zpx b) s

/-- ROL a, 0x2E (6): R247, R169. -/
def execRolAbs (a : Addr) (s : State) : Host.Outcome State Fault Refusal :=
  modifyOp 6 rol (.abs a) s

/-- ROL a,X, 0x3E (7): R247, R170. -/
def execRolAbsX (a : Addr) (s : State) : Host.Outcome State Fault Refusal :=
  modifyOp 7 rol (.absx a) s

/-- ROL A, 0x2A (2): R247, R164. -/
def execRolAcc (s : State) : Host.Outcome State Fault Refusal :=
  accOp 2 rol s

/-- ROR b, 0x66 (5): R248, R166. -/
def execRorZp (b : Byte) (s : State) : Host.Outcome State Fault Refusal :=
  modifyOp 5 ror (.zp b) s

/-- ROR b,X, 0x76 (6): R248, R167. -/
def execRorZpX (b : Byte) (s : State) : Host.Outcome State Fault Refusal :=
  modifyOp 6 ror (.zpx b) s

/-- ROR a, 0x6E (6): R248, R169. -/
def execRorAbs (a : Addr) (s : State) : Host.Outcome State Fault Refusal :=
  modifyOp 6 ror (.abs a) s

/-- ROR a,X, 0x7E (7): R248, R170. -/
def execRorAbsX (a : Addr) (s : State) : Host.Outcome State Fault Refusal :=
  modifyOp 7 ror (.absx a) s

/-- ROR A, 0x6A (2): R248, R164. -/
def execRorAcc (s : State) : Host.Outcome State Fault Refusal :=
  accOp 2 ror s

end Sys2Proof.Machine
end

