-- ==== Sys2Proof/Machine/System.lean ====
section
/-! DEFINITION. Meanings: stack, flag and system instructions (45_stack_flags_system.md), and the illegal opcodes (R162, R452). The number in parentheses is the opcode's base
cycle count and page-penalty mark from R138. -/

namespace Sys2Proof.Machine

/-- PHA, 0x48 (3): R281, R164. -/
def execPha (s : State) : Host.Outcome State Fault Refusal :=
  retire 3 (push s.a s)

/-- PLA, 0x68 (4): R282, R164. -/
def execPla (s : State) : Host.Outcome State Fault Refusal :=
  retire 4 (setA (pull s).1 (pull s).2)

/-- PHP, 0x08 (3): R283, R164. -/
def execPhp (s : State) : Host.Outcome State Fault Refusal :=
  retire 3 (push (statusForPush s) s)

/-- PLP, 0x28 (4): R284, R164. -/
def execPlp (s : State) : Host.Outcome State Fault Refusal :=
  retire 4 (loadStatus (pull s).1 (pull s).2)

/-- CLC, 0x18 (2): R285, R164. -/
def execClc (s : State) : Host.Outcome State Fault Refusal :=
  retire 2 { s with c := false }

/-- SEC, 0x38 (2): R286, R164. -/
def execSec (s : State) : Host.Outcome State Fault Refusal :=
  retire 2 { s with c := true }

/-- CLI, 0x58 (2): R287, R164. -/
def execCli (s : State) : Host.Outcome State Fault Refusal :=
  retire 2 { s with i := false }

/-- SEI, 0x78 (2): R288, R164. -/
def execSei (s : State) : Host.Outcome State Fault Refusal :=
  retire 2 { s with i := true }

/-- CLD, 0xD8 (2): R289, R164. -/
def execCld (s : State) : Host.Outcome State Fault Refusal :=
  retire 2 { s with d := false }

/-- SED, 0xF8 (2): R290, R164. -/
def execSed (s : State) : Host.Outcome State Fault Refusal :=
  retire 2 { s with d := true }

/-- CLV, 0xB8 (2): R291, R164. -/
def execClv (s : State) : Host.Outcome State Fault Refusal :=
  retire 2 { s with v := false }

/-- NOP, 0xEA (2): R292, R164. -/
def execNop (s : State) : Host.Outcome State Fault Refusal :=
  retire 2 s

/-- BRK, 0x00 (7): R293, R164: `PC` is the address after the opcode, so the return address `pc0 + 2` is `PC + 1`. -/
def execBrk (s : State) : Host.Outcome State Fault Refusal :=
  retire 7 (takeBreak (s.pc + 1) s)

/-- RTI, 0x40 (6): R294, R164. -/
def execRti (s : State) : Host.Outcome State Fault Refusal :=
  retire 6 (returnFromBreak s)

/-- An opcode byte with no table entry: IllegalOpcodeFault (R139, R162, R452). `PC - 1` is the address of the opcode; no
cycle is clocked. -/
def execIllegal (opcode : Byte) (s : State) : Host.Outcome State Fault Refusal :=
  .next (takeIllegalOpcode opcode (s.pc - 1) s)

end Sys2Proof.Machine
end

