-- ==== Sys2Proof/Machine/Fetch.lean ====
section
/-! DEFINITION. Fetching one instruction (R160 to R163) and the placing of a table word where the next fetch reads. -/

namespace Sys2Proof.Machine

/-- `Fetch()` (R163). -/
def fetch (s : State) : Byte × State :=
  let r := busRead s.pc s
  (r.1, { r.2 with pc := s.pc + 1 })

/-- The bytes of the instruction at `PC`, in address order, and the state after fetching them (R161, R177 items 1 and 2).
An illegal opcode's operand bytes are not fetched (R162). -/
def fetchBytes (s : State) : List Byte × State :=
  let f0 := fetch s
  match opcodeLength f0.1 with
  | 1 => ([f0.1], f0.2)
  | 2 =>
    let f1 := fetch f0.2
    ([f0.1, f1.1], f1.2)
  | _ =>
    let f1 := fetch f0.2
    let f2 := fetch f1.2
    ([f0.1, f1.1, f2.1], f2.2)

/-- The instruction that starts with these bytes; missing operand bytes count as 0, and none is missing from what
`fetchBytes` gives (`fetchBytes_decode` in Laws/Fetch.lean). -/
def assembleBytes : List Byte → Instr
  | [] => assemble 0 0 0
  | [op] => assemble op 0 0
  | [op, b1] => assemble op b1 0
  | op :: b1 :: b2 :: _ => assemble op b1 b2

/-- Fetch and decode (R161): the instruction at `PC` and the state in which it executes. -/
def fetchInstr (s : State) : Instr × State :=
  let f := fetchBytes s
  (assembleBytes f.1, f.2)

/-- Whether a fetch at `a` reads a byte the model can place there: a RAM cell, or a cartridge byte that is no hot spot. -/
def placeable (a : Addr) (s : State) : Bool :=
  match target a with
  | .ram _ => true
  | .cart off => !s.cart.hot off
  | .video _ => false
  | .io _ => false

/-- Place a byte where a fetch at `a` reads it: in the RAM, or (from outside the machine) in the cartridge image. -/
def placeByte (a : Addr) (w : Byte) (s : State) : State :=
  match target a with
  | .ram k => { s with ram := s.ram.write k.toNat w }
  | .cart off => { s with cart := { s.cart with image := s.cart.image.write (s.cart.index off) w } }
  | .video _ => s
  | .io _ => s

/-- Place bytes from `a` upward. -/
def placeBytes : Addr → List Byte → State → State
  | _, [], s => s
  | a, w :: ws, s => placeBytes (a + 1) ws (placeByte a w s)

/-- Whether every byte of a list can be placed from `a` upward. -/
def placeableBytes : Addr → List Byte → State → Bool
  | _, [], _ => true
  | a, _ :: ws, s => placeable a s && placeableBytes (a + 1) ws s

/-- Where a program is entered when `PC` is at no storable byte: the start of the cartridge window, 0xF000 (log entry 6). -/
def programEntry : Addr := 0xF000

/-- `s` about to fetch the bytes `ws`: they lie at `PC` if every address there is RAM or cartridge, else at the start of the
cartridge window with `PC` moved there; the CORE is neither halted nor waiting, and the next step takes no host call. -/
def withProgramBytes (ws : List Byte) (s : State) : State :=
  let entry := if placeableBytes s.pc ws s then s.pc else programEntry
  let s := placeBytes entry ws s
  { s with
    pc := entry
    halted := none
    video := { s.video with waiting := false }
    inputs := if s.inputs.isEmpty then [] else [] :: s.inputs }

end Sys2Proof.Machine
end

