-- ==== Sys2Proof/Machine/Host.lean ====
section
/-! DEFINITION. What the host does between system steps (R7): the reset sequence (R481, R482) and the input calls (R352, R432). -/

namespace Sys2Proof.Machine

/-- Steps 1 to 4 of the reset sequence (R481): every field from the tables R75 to R78, the cartridge image kept. The event
history, the host calls to come and the free-value counter are the model's and are kept. -/
def resetFields (s : State) : State :=
  { s with
    a := s.launch.resetA, x := s.launch.resetX, y := s.launch.resetY, sp := s.launch.resetSp
    n := s.launch.resetN, v := s.launch.resetV, b := s.launch.resetB, d := s.launch.resetD
    i := true, z := s.launch.resetZ, c := s.launch.resetC
    halted := none
    cart := { s.cart with bank := s.launch.resetBank }
    ram := s.launch.resetRam
    io := { swcha := 0xFF, swchb := 0xFF, timerRaw := s.launch.resetTimerRaw,
            prescale := s.launch.resetPrescale, timerWritten := 0 }
    video := { Video.reset with events := s.video.events } }

/-- `Reset` (R481): the fields, then `PC <- BusRead16(0xFFFC)`. Nothing is clocked and nothing pushed. -/
def hardReset (s : State) : State :=
  let vec := busRead16 Config.resetVector (resetFields s)
  { vec.2 with pc := vec.1 }

/-- One host call (R352, R432, R482). -/
def hostCall (h : HostCall) (s : State) : State :=
  match h with
  | .setFire p pressed => { s with video := setFire p pressed s.video }
  | .setLine reg bit level => { s with io := setLine reg bit.val level s.io }
  | .setJoystick p dir pressed => { s with io := setLine .swcha (joystickBit p dir) (!pressed) s.io }
  | .setSwitch which level => { s with io := setLine .swchb (switchBit which) level s.io }
  | .reset => hardReset s

/-- A list of host calls, in order. -/
def hostCalls : List HostCall → State → State
  | [], s => s
  | h :: hs, s => hostCalls hs (hostCall h s)

/-- The host's turn before a system step (R7, D29): the next list of the input stream is taken off and made. -/
def hostTurn (s : State) : State :=
  match s.inputs with
  | [] => s
  | hs :: rest => hostCalls hs { s with inputs := rest }

end Sys2Proof.Machine
end

