-- ==== Sys2Proof/Machine/SystemStep.lean ====
section
/-! DEFINITION. The step of the whole CORE (R160) and the placing of an opcode-table word, in the words of which Step.lean
gives the machine's step. -/

namespace Sys2Proof.Machine

/-- One instruction: fetch, decode, execute, clock its cycles (R160, R161). -/
def runInstr (s : State) : Host.Outcome State Fault Refusal := exec (fetchInstr s).1 (fetchInstr s).2

/-- `SystemStep` (R160) of a state in which the host has made its calls: no step when halted, one clocked cycle when
waiting, else one instruction. -/
def systemStep (s : State) : Host.Outcome State Fault Refusal :=
  match s.halted with
  | some h => .fault (.halted h.1 h.2)
  | none => if s.video.waiting then retire 1 s else runInstr s

/-- The bytes the fetch needs of the table word `w` of `nbits` bits (every higher bit 0). -/
def wordBytes (nbits w : Nat) : List Byte :=
  (tableBytes nbits w).take (opcodeLength (BitVec.ofNat 8 (w % 2 ^ nbits)))

end Sys2Proof.Machine
end

