-- ==== Sys2Proof/Machine/Step.lean ====
section
/-! DEFINITION. The machine's step, and the placing of an opcode-table word where it fetches. -/

namespace Sys2Proof.Machine

/-- One turn of the driving loop (R7, R160): the host's calls of this turn, then `SystemStep`. -/
def step (s : State) : Host.Outcome State Fault Refusal := systemStep (hostTurn s)

/-- `s` with the instruction whose bits are `w` stored where `step` fetches its next instruction (log entry 6). -/
def State.withFetchWord (s : State) (nbits w : Nat) : State := withProgramBytes (wordBytes nbits w) s

end Sys2Proof.Machine
end

