-- ==== Sys2Proof/Safety.lean ====
section
/-! DEFINITION. The terms claims are made in: the invariant of a system-step boundary, which states can step, and the
groupings of the opcode table (R26 to R32, R138, R176) that statements quantify over. -/

namespace Sys2Proof.Machine

/-- A start position is 0 (reset only) or a committed one: `hpos + lead` with `hpos` a multiple of 3 below 228 (R62, R389,
R392). -/
def StartPosOk (o : Obj) (k : Nat) : Prop :=
  k = 0 ∨ (lead o ≤ k ∧ k ≤ 225 + lead o ∧ k % 3 = lead o % 3)

/-- A motion offset is in -8 to +7 (R60). -/
def MotionOk (k : Int) : Prop := -8 ≤ k ∧ k ≤ 7

/-- The ranges of the video chip's counters and positions (R48, R49, R60, R62, R392). They hold at every moment. -/
structure VideoOk (s : Video) : Prop where
  hpos_lt : s.hpos < 228
  hpos_mod : s.hpos % 3 = 0
  vpos_lt : s.vpos < 262
  startPos_ok : ∀ o, StartPosOk o (s.startPos.get o)
  hmPending_ok : ∀ o, MotionOk (s.hmPending.get o)
  hmApplied_ok : ∀ o, MotionOk (s.hmApplied.get o)

/-- What a clock call leaves: no strobe is armed and `waiting` equals the WSYNC latch (R389, R390). It holds at every
system-step boundary, not inside an instruction. -/
structure VideoSettled (s : Video) : Prop where
  armed_none : s.armed = .all false
  waiting_latch : s.waiting = s.wsyncLatch

/-- The RAM in canonical form, with 128 cells (R40). -/
def RamOk (m : Memory) : Prop := m.wf = true ∧ m.below 128 = true

/-- The cartridge image in canonical form and of its size (R36). -/
def CartOk (c : Cart) : Prop := c.image.wf = true ∧ c.image.below c.size.bytes = true

/-- The timer within its prescaled range (R43, R427). -/
def IoOk (t : Io) : Prop := t.timerRaw < t.prescale.range

/-- Launch parameters in the ranges R373, R483 give them. -/
structure LaunchOk (l : Launch) : Prop where
  ram_ok : RamOk l.resetRam
  timer_ok : l.resetTimerRaw < l.resetPrescale.range
  line_ok : l.firstVisibleLine ≤ 70

/-- Everything but `VideoSettled`: what every access and every operation keeps. -/
structure StateOk (s : State) : Prop where
  ram_ok : RamOk s.ram
  cart_ok : CartOk s.cart
  io_ok : IoOk s.io
  video_ok : VideoOk s.video
  launch_ok : LaunchOk s.launch

/-- THE INVARIANT of a system-step boundary. -/
structure Inv (s : State) : Prop where
  ok : StateOk s
  settled : VideoSettled s.video

/-- A state in which the next `step` runs an instruction: no host call precedes it, and the CORE neither is halted nor
waits (R160). -/
structure Running (s : State) : Prop where
  no_calls : s.inputs = []
  not_halted : s.halted = none
  not_waiting : s.video.waiting = false

/-- The fetch of the instruction at `PC` touches no hot spot of an 8 KB image: it selects no bank (R163, R492). -/
def FetchQuiet (s : State) : Prop := (fetchInstr s).2.cart = s.cart

/-- The CPU's registers and flags, `PC` and `halted` included. -/
structure SameCpu (s t : State) : Prop where
  a : t.a = s.a
  x : t.x = s.x
  y : t.y = s.y
  sp : t.sp = s.sp
  pc : t.pc = s.pc
  n : t.n = s.n
  v : t.v = s.v
  b : t.b = s.b
  d : t.d = s.d
  i : t.i = s.i
  z : t.z = s.z
  c : t.c = s.c
  halted : t.halted = s.halted

/-- The cycle count of a read-type instruction, but for its page-cross penalty (R138): the same for every such mnemonic. -/
def readCycles : Operand → Nat
  | .imm _ => 2
  | .zp _ => 3
  | .zpx _ => 4
  | .zpy _ => 4
  | .abs _ => 4
  | .absx _ => 4
  | .absy _ => 4
  | .indx _ => 6
  | .indy _ => 5

/-- The cycle count of a store (R138; no store has an immediate form). -/
def storeCycles : Operand → Nat
  | .imm _ => 0
  | .zp _ => 3
  | .zpx _ => 4
  | .zpy _ => 4
  | .abs _ => 4
  | .absx _ => 5
  | .absy _ => 5
  | .indx _ => 6
  | .indy _ => 6

/-- The cycle count of a read-modify-write instruction on memory (R138): it has the modes `zp`, `zpx`, `abs`, `absx` only. -/
def modifyCycles : Operand → Nat
  | .imm _ => 0
  | .zp _ => 5
  | .zpx _ => 6
  | .zpy _ => 0
  | .abs _ => 6
  | .absx _ => 7
  | .absy _ => 0
  | .indx _ => 0
  | .indy _ => 0

/-- The cycle count of a read-type instruction: one more when an index addition crossed a page (R176). -/
def readCount (o : Operand) (s : State) : Nat := readCycles o + if pageCrossed o s then 1 else 0

/-- The instructions that store nothing: neither a store, nor a read-modify-write of memory, nor a push (R177). -/
def storesNothing (i : Instr) : Bool :=
  match i.mnemonic with
  | .sta | .stx | .sty | .pha | .php | .jsr | .brk | .inc | .dec => false
  | .asl | .lsr | .rol | .ror => i.operand.isNone
  | _ => true

/-- The mnemonics whose destination can be `A` (R20; the shifts only in their accumulator form). -/
def writesA (i : Instr) : Bool :=
  match i.mnemonic with
  | .lda | .adc | .sbc | .and | .ora | .eor | .pla | .txa | .tya => true
  | .asl | .lsr | .rol | .ror => i.operand.isNone
  | _ => false

/-- The mnemonics that write `X` (R21). -/
def writesX (i : Instr) : Bool :=
  match i.mnemonic with
  | .ldx | .tax | .tsx | .inx | .dex => true
  | _ => false

/-- The mnemonics that write `Y` (R22). -/
def writesY (i : Instr) : Bool :=
  match i.mnemonic with
  | .ldy | .tay | .iny | .dey => true
  | _ => false

/-- The mnemonics that write `SP`: TXS and every one that pushes or pulls (R23). -/
def writesSp (i : Instr) : Bool :=
  match i.mnemonic with
  | .txs | .pha | .php | .pla | .plp | .jsr | .rts | .brk | .rti => true
  | _ => false

/-- The mnemonics that write `C` (R26). -/
def writesC (i : Instr) : Bool :=
  match i.mnemonic with
  | .adc | .sbc | .cmp | .cpx | .cpy | .asl | .lsr | .rol | .ror | .clc | .sec | .plp | .rti => true
  | _ => false

/-- The mnemonics that write `Z` (R27). -/
def writesZ (i : Instr) : Bool :=
  match i.mnemonic with
  | .lda | .ldx | .ldy | .tax | .tay | .txa | .tya | .tsx | .pla | .adc | .sbc | .cmp | .cpx | .cpy => true
  | .inc | .dec | .inx | .iny | .dex | .dey | .and | .ora | .eor | .bit | .asl | .lsr | .rol | .ror | .plp | .rti => true
  | _ => false

/-- The mnemonics that write `N`: those that write `Z` (R32). -/
def writesN (i : Instr) : Bool := writesZ i

/-- The mnemonics that write `I` (R28). -/
def writesI (i : Instr) : Bool :=
  match i.mnemonic with
  | .sei | .cli | .brk | .plp | .rti => true
  | _ => false

/-- The mnemonics that write `D` (R29). -/
def writesD (i : Instr) : Bool :=
  match i.mnemonic with
  | .sed | .cld | .plp | .rti => true
  | _ => false

/-- The mnemonics that write `V` (R31). -/
def writesV (i : Instr) : Bool :=
  match i.mnemonic with
  | .adc | .sbc | .bit | .clv | .plp | .rti => true
  | _ => false

/-- The mnemonics that write the stored `B` (R30). -/
def writesB (i : Instr) : Bool :=
  match i.mnemonic with
  | .brk | .plp | .rti => true
  | _ => false

/-- The instructions that store to the effective address of their operand: the stores and the memory forms of the
read-modify-write instructions (R177 item 5). -/
def storesOperand (i : Instr) : Bool :=
  match i.mnemonic with
  | .sta | .stx | .sty | .inc | .dec => true
  | .asl | .lsr | .rol | .ror => i.operand.isSome
  | _ => false

/-- How many bytes an instruction pushes (R272, R281, R283, R293). -/
def pushCount (i : Instr) : Nat :=
  match i.mnemonic with
  | .pha | .php => 1
  | .jsr => 2
  | .brk => 3
  | _ => 0

/-- The result `R` of a shift or rotate of `m` with carry in `c` (R245 to R248); `m` itself for every other mnemonic. -/
def shiftResult (q : Mnemonic) (m : Byte) (c : Bool) : Byte :=
  match q with
  | .asl => BitVec.ofNat 8 (m.toNat * 2)
  | .lsr => BitVec.ofNat 8 (m.toNat / 2)
  | .rol => BitVec.ofNat 8 (m.toNat * 2 + c.toNat)
  | .ror => BitVec.ofNat 8 (m.toNat / 2 + c.toNat * 128)
  | _ => m

/-- The bit a shift or rotate moves out (R245 to R248). -/
def shiftCarry (q : Mnemonic) (m : Byte) : Bool :=
  match q with
  | .asl | .rol => m.getLsbD 7
  | .lsr | .ror => m.getLsbD 0
  | _ => false

/-- The fifteen collision latches, in the order of R64. -/
def Collisions.latches : List (Collisions → Bool) :=
  [(·.m0p1), (·.m0p0), (·.m1p0), (·.m1p1), (·.p0pf), (·.p0bl), (·.p1pf), (·.p1bl)] ++
  [(·.m0pf), (·.m0bl), (·.m1pf), (·.m1bl), (·.blpf), (·.p0p1), (·.m0m1)]

/-- The number a packed-BCD byte stands for (R222). -/
def bcdValue (w : Byte) : Nat := w.toNat / 16 * 10 + w.toNat % 16

/-- The packed-BCD byte of a number below 100 (R222). -/
def bcdByte (k : Nat) : Byte := BitVec.ofNat 8 (k / 10 * 16 + k % 10)

end Sys2Proof.Machine
end

