-- ==== Sys2Proof/Certificates/Slice0/Obligations.lean ====
section
/-! DEFINITION. The statements for the provers. `PC` in the state that `exec` takes is the address of the next sequential
instruction: the instruction's bytes have been fetched (log entry 2), and `exec` ends with the clock call of R160. -/

section
open Sys2Proof Sys2Proof.Machine

/-! ### Encoding and the step -/

/-- Decode and encode agree, first direction: every well-formed instruction, with every operand value, comes back from its
bytes, and the bytes after it are left (R130 to R137). -/
def Obligations.DecodeOfEncode : Prop :=
  ∀ (i : Instr) (rest : List Byte), i.wf = true → decode (encode i ++ rest) = .ok (i, rest)

/-- Second direction: what the decoder reads is well formed, and it is those bytes (R130 to R139). -/
def Obligations.EncodeOfDecode : Prop :=
  ∀ (bs : List Byte) (i : Instr) (rest : List Byte), decode bs = .ok (i, rest) → i.wf = true ∧ encode i ++ rest = bs

/-- The opcode map (R133 to R137, R139), row by row: each of the 151 opcode bytes with any operand bytes (a 16-bit operand is `b2 || b1`)
and any bytes after them, and each of the 105 bytes with no entry, which takes no operand byte. -/
def Obligations.DecodeWordsFromTheOpcodeMap : Prop :=
  ∀ (b1 b2 : Byte) (rest : List Byte),
    -- row 0x
    decode (0x00 :: rest) = .ok (.brk, rest) ∧
    decode (0x01 :: b1 :: rest) = .ok (.oraIndX b1, rest) ∧
    decode (0x05 :: b1 :: rest) = .ok (.oraZp b1, rest) ∧
    decode (0x06 :: b1 :: rest) = .ok (.aslZp b1, rest) ∧
    decode (0x08 :: rest) = .ok (.php, rest) ∧
    decode (0x09 :: b1 :: rest) = .ok (.oraImm b1, rest) ∧
    decode (0x0A :: rest) = .ok (.aslAcc, rest) ∧
    decode (0x0D :: b1 :: b2 :: rest) = .ok (.oraAbs (b2 ++ b1), rest) ∧
    decode (0x0E :: b1 :: b2 :: rest) = .ok (.aslAbs (b2 ++ b1), rest) ∧
    -- row 1x
    decode (0x10 :: b1 :: rest) = .ok (.bpl b1, rest) ∧
    decode (0x11 :: b1 :: rest) = .ok (.oraIndY b1, rest) ∧
    decode (0x15 :: b1 :: rest) = .ok (.oraZpX b1, rest) ∧
    decode (0x16 :: b1 :: rest) = .ok (.aslZpX b1, rest) ∧
    decode (0x18 :: rest) = .ok (.clc, rest) ∧
    decode (0x19 :: b1 :: b2 :: rest) = .ok (.oraAbsY (b2 ++ b1), rest) ∧
    decode (0x1D :: b1 :: b2 :: rest) = .ok (.oraAbsX (b2 ++ b1), rest) ∧
    decode (0x1E :: b1 :: b2 :: rest) = .ok (.aslAbsX (b2 ++ b1), rest) ∧
    -- row 2x
    decode (0x20 :: b1 :: b2 :: rest) = .ok (.jsr (b2 ++ b1), rest) ∧
    decode (0x21 :: b1 :: rest) = .ok (.andIndX b1, rest) ∧
    decode (0x24 :: b1 :: rest) = .ok (.bitZp b1, rest) ∧
    decode (0x25 :: b1 :: rest) = .ok (.andZp b1, rest) ∧
    decode (0x26 :: b1 :: rest) = .ok (.rolZp b1, rest) ∧
    decode (0x28 :: rest) = .ok (.plp, rest) ∧
    decode (0x29 :: b1 :: rest) = .ok (.andImm b1, rest) ∧
    decode (0x2A :: rest) = .ok (.rolAcc, rest) ∧
    decode (0x2C :: b1 :: b2 :: rest) = .ok (.bitAbs (b2 ++ b1), rest) ∧
    decode (0x2D :: b1 :: b2 :: rest) = .ok (.andAbs (b2 ++ b1), rest) ∧
    decode (0x2E :: b1 :: b2 :: rest) = .ok (.rolAbs (b2 ++ b1), rest) ∧
    -- row 3x
    decode (0x30 :: b1 :: rest) = .ok (.bmi b1, rest) ∧
    decode (0x31 :: b1 :: rest) = .ok (.andIndY b1, rest) ∧
    decode (0x35 :: b1 :: rest) = .ok (.andZpX b1, rest) ∧
    decode (0x36 :: b1 :: rest) = .ok (.rolZpX b1, rest) ∧
    decode (0x38 :: rest) = .ok (.sec, rest) ∧
    decode (0x39 :: b1 :: b2 :: rest) = .ok (.andAbsY (b2 ++ b1), rest) ∧
    decode (0x3D :: b1 :: b2 :: rest) = .ok (.andAbsX (b2 ++ b1), rest) ∧
    decode (0x3E :: b1 :: b2 :: rest) = .ok (.rolAbsX (b2 ++ b1), rest) ∧
    -- row 4x
    decode (0x40 :: rest) = .ok (.rti, rest) ∧
    decode (0x41 :: b1 :: rest) = .ok (.eorIndX b1, rest) ∧
    decode (0x45 :: b1 :: rest) = .ok (.eorZp b1, rest) ∧
    decode (0x46 :: b1 :: rest) = .ok (.lsrZp b1, rest) ∧
    decode (0x48 :: rest) = .ok (.pha, rest) ∧
    decode (0x49 :: b1 :: rest) = .ok (.eorImm b1, rest) ∧
    decode (0x4A :: rest) = .ok (.lsrAcc, rest) ∧
    decode (0x4C :: b1 :: b2 :: rest) = .ok (.jmpAbs (b2 ++ b1), rest) ∧
    decode (0x4D :: b1 :: b2 :: rest) = .ok (.eorAbs (b2 ++ b1), rest) ∧
    decode (0x4E :: b1 :: b2 :: rest) = .ok (.lsrAbs (b2 ++ b1), rest) ∧
    -- row 5x
    decode (0x50 :: b1 :: rest) = .ok (.bvc b1, rest) ∧
    decode (0x51 :: b1 :: rest) = .ok (.eorIndY b1, rest) ∧
    decode (0x55 :: b1 :: rest) = .ok (.eorZpX b1, rest) ∧
    decode (0x56 :: b1 :: rest) = .ok (.lsrZpX b1, rest) ∧
    decode (0x58 :: rest) = .ok (.cli, rest) ∧
    decode (0x59 :: b1 :: b2 :: rest) = .ok (.eorAbsY (b2 ++ b1), rest) ∧
    decode (0x5D :: b1 :: b2 :: rest) = .ok (.eorAbsX (b2 ++ b1), rest) ∧
    decode (0x5E :: b1 :: b2 :: rest) = .ok (.lsrAbsX (b2 ++ b1), rest) ∧
    -- row 6x
    decode (0x60 :: rest) = .ok (.rts, rest) ∧
    decode (0x61 :: b1 :: rest) = .ok (.adcIndX b1, rest) ∧
    decode (0x65 :: b1 :: rest) = .ok (.adcZp b1, rest) ∧
    decode (0x66 :: b1 :: rest) = .ok (.rorZp b1, rest) ∧
    decode (0x68 :: rest) = .ok (.pla, rest) ∧
    decode (0x69 :: b1 :: rest) = .ok (.adcImm b1, rest) ∧
    decode (0x6A :: rest) = .ok (.rorAcc, rest) ∧
    decode (0x6C :: b1 :: b2 :: rest) = .ok (.jmpInd (b2 ++ b1), rest) ∧
    decode (0x6D :: b1 :: b2 :: rest) = .ok (.adcAbs (b2 ++ b1), rest) ∧
    decode (0x6E :: b1 :: b2 :: rest) = .ok (.rorAbs (b2 ++ b1), rest) ∧
    -- row 7x
    decode (0x70 :: b1 :: rest) = .ok (.bvs b1, rest) ∧
    decode (0x71 :: b1 :: rest) = .ok (.adcIndY b1, rest) ∧
    decode (0x75 :: b1 :: rest) = .ok (.adcZpX b1, rest) ∧
    decode (0x76 :: b1 :: rest) = .ok (.rorZpX b1, rest) ∧
    decode (0x78 :: rest) = .ok (.sei, rest) ∧
    decode (0x79 :: b1 :: b2 :: rest) = .ok (.adcAbsY (b2 ++ b1), rest) ∧
    decode (0x7D :: b1 :: b2 :: rest) = .ok (.adcAbsX (b2 ++ b1), rest) ∧
    decode (0x7E :: b1 :: b2 :: rest) = .ok (.rorAbsX (b2 ++ b1), rest) ∧
    -- row 8x
    decode (0x81 :: b1 :: rest) = .ok (.staIndX b1, rest) ∧
    decode (0x84 :: b1 :: rest) = .ok (.styZp b1, rest) ∧
    decode (0x85 :: b1 :: rest) = .ok (.staZp b1, rest) ∧
    decode (0x86 :: b1 :: rest) = .ok (.stxZp b1, rest) ∧
    decode (0x88 :: rest) = .ok (.dey, rest) ∧
    decode (0x8A :: rest) = .ok (.txa, rest) ∧
    decode (0x8C :: b1 :: b2 :: rest) = .ok (.styAbs (b2 ++ b1), rest) ∧
    decode (0x8D :: b1 :: b2 :: rest) = .ok (.staAbs (b2 ++ b1), rest) ∧
    decode (0x8E :: b1 :: b2 :: rest) = .ok (.stxAbs (b2 ++ b1), rest) ∧
    -- row 9x
    decode (0x90 :: b1 :: rest) = .ok (.bcc b1, rest) ∧
    decode (0x91 :: b1 :: rest) = .ok (.staIndY b1, rest) ∧
    decode (0x94 :: b1 :: rest) = .ok (.styZpX b1, rest) ∧
    decode (0x95 :: b1 :: rest) = .ok (.staZpX b1, rest) ∧
    decode (0x96 :: b1 :: rest) = .ok (.stxZpY b1, rest) ∧
    decode (0x98 :: rest) = .ok (.tya, rest) ∧
    decode (0x99 :: b1 :: b2 :: rest) = .ok (.staAbsY (b2 ++ b1), rest) ∧
    decode (0x9A :: rest) = .ok (.txs, rest) ∧
    decode (0x9D :: b1 :: b2 :: rest) = .ok (.staAbsX (b2 ++ b1), rest) ∧
    -- row Ax
    decode (0xA0 :: b1 :: rest) = .ok (.ldyImm b1, rest) ∧
    decode (0xA1 :: b1 :: rest) = .ok (.ldaIndX b1, rest) ∧
    decode (0xA2 :: b1 :: rest) = .ok (.ldxImm b1, rest) ∧
    decode (0xA4 :: b1 :: rest) = .ok (.ldyZp b1, rest) ∧
    decode (0xA5 :: b1 :: rest) = .ok (.ldaZp b1, rest) ∧
    decode (0xA6 :: b1 :: rest) = .ok (.ldxZp b1, rest) ∧
    decode (0xA8 :: rest) = .ok (.tay, rest) ∧
    decode (0xA9 :: b1 :: rest) = .ok (.ldaImm b1, rest) ∧
    decode (0xAA :: rest) = .ok (.tax, rest) ∧
    decode (0xAC :: b1 :: b2 :: rest) = .ok (.ldyAbs (b2 ++ b1), rest) ∧
    decode (0xAD :: b1 :: b2 :: rest) = .ok (.ldaAbs (b2 ++ b1), rest) ∧
    decode (0xAE :: b1 :: b2 :: rest) = .ok (.ldxAbs (b2 ++ b1), rest) ∧
    -- row Bx
    decode (0xB0 :: b1 :: rest) = .ok (.bcs b1, rest) ∧
    decode (0xB1 :: b1 :: rest) = .ok (.ldaIndY b1, rest) ∧
    decode (0xB4 :: b1 :: rest) = .ok (.ldyZpX b1, rest) ∧
    decode (0xB5 :: b1 :: rest) = .ok (.ldaZpX b1, rest) ∧
    decode (0xB6 :: b1 :: rest) = .ok (.ldxZpY b1, rest) ∧
    decode (0xB8 :: rest) = .ok (.clv, rest) ∧
    decode (0xB9 :: b1 :: b2 :: rest) = .ok (.ldaAbsY (b2 ++ b1), rest) ∧
    decode (0xBA :: rest) = .ok (.tsx, rest) ∧
    decode (0xBC :: b1 :: b2 :: rest) = .ok (.ldyAbsX (b2 ++ b1), rest) ∧
    decode (0xBD :: b1 :: b2 :: rest) = .ok (.ldaAbsX (b2 ++ b1), rest) ∧
    decode (0xBE :: b1 :: b2 :: rest) = .ok (.ldxAbsY (b2 ++ b1), rest) ∧
    -- row Cx
    decode (0xC0 :: b1 :: rest) = .ok (.cpyImm b1, rest) ∧
    decode (0xC1 :: b1 :: rest) = .ok (.cmpIndX b1, rest) ∧
    decode (0xC4 :: b1 :: rest) = .ok (.cpyZp b1, rest) ∧
    decode (0xC5 :: b1 :: rest) = .ok (.cmpZp b1, rest) ∧
    decode (0xC6 :: b1 :: rest) = .ok (.decZp b1, rest) ∧
    decode (0xC8 :: rest) = .ok (.iny, rest) ∧
    decode (0xC9 :: b1 :: rest) = .ok (.cmpImm b1, rest) ∧
    decode (0xCA :: rest) = .ok (.dex, rest) ∧
    decode (0xCC :: b1 :: b2 :: rest) = .ok (.cpyAbs (b2 ++ b1), rest) ∧
    decode (0xCD :: b1 :: b2 :: rest) = .ok (.cmpAbs (b2 ++ b1), rest) ∧
    decode (0xCE :: b1 :: b2 :: rest) = .ok (.decAbs (b2 ++ b1), rest) ∧
    -- row Dx
    decode (0xD0 :: b1 :: rest) = .ok (.bne b1, rest) ∧
    decode (0xD1 :: b1 :: rest) = .ok (.cmpIndY b1, rest) ∧
    decode (0xD5 :: b1 :: rest) = .ok (.cmpZpX b1, rest) ∧
    decode (0xD6 :: b1 :: rest) = .ok (.decZpX b1, rest) ∧
    decode (0xD8 :: rest) = .ok (.cld, rest) ∧
    decode (0xD9 :: b1 :: b2 :: rest) = .ok (.cmpAbsY (b2 ++ b1), rest) ∧
    decode (0xDD :: b1 :: b2 :: rest) = .ok (.cmpAbsX (b2 ++ b1), rest) ∧
    decode (0xDE :: b1 :: b2 :: rest) = .ok (.decAbsX (b2 ++ b1), rest) ∧
    -- row Ex
    decode (0xE0 :: b1 :: rest) = .ok (.cpxImm b1, rest) ∧
    decode (0xE1 :: b1 :: rest) = .ok (.sbcIndX b1, rest) ∧
    decode (0xE4 :: b1 :: rest) = .ok (.cpxZp b1, rest) ∧
    decode (0xE5 :: b1 :: rest) = .ok (.sbcZp b1, rest) ∧
    decode (0xE6 :: b1 :: rest) = .ok (.incZp b1, rest) ∧
    decode (0xE8 :: rest) = .ok (.inx, rest) ∧
    decode (0xE9 :: b1 :: rest) = .ok (.sbcImm b1, rest) ∧
    decode (0xEA :: rest) = .ok (.nop, rest) ∧
    decode (0xEC :: b1 :: b2 :: rest) = .ok (.cpxAbs (b2 ++ b1), rest) ∧
    decode (0xED :: b1 :: b2 :: rest) = .ok (.sbcAbs (b2 ++ b1), rest) ∧
    decode (0xEE :: b1 :: b2 :: rest) = .ok (.incAbs (b2 ++ b1), rest) ∧
    -- row Fx
    decode (0xF0 :: b1 :: rest) = .ok (.beq b1, rest) ∧
    decode (0xF1 :: b1 :: rest) = .ok (.sbcIndY b1, rest) ∧
    decode (0xF5 :: b1 :: rest) = .ok (.sbcZpX b1, rest) ∧
    decode (0xF6 :: b1 :: rest) = .ok (.incZpX b1, rest) ∧
    decode (0xF8 :: rest) = .ok (.sed, rest) ∧
    decode (0xF9 :: b1 :: b2 :: rest) = .ok (.sbcAbsY (b2 ++ b1), rest) ∧
    decode (0xFD :: b1 :: b2 :: rest) = .ok (.sbcAbsX (b2 ++ b1), rest) ∧
    decode (0xFE :: b1 :: b2 :: rest) = .ok (.incAbsX (b2 ++ b1), rest) ∧
    ∀ op, illegalBytes.contains op = true → decode (op :: rest) = .ok (.illegal op, rest)

/-- A step runs the decoded instruction. First clause: the bytes fetched at `PC` through the bus decode to `i`; the step is `exec`
of `i` in the state after the fetch, in which only `PC` has moved past them and a hot spot among them may have selected a
bank (R161, R163). Second clause: where no bank is selected, the bytes are those the bus shows at `PC`, `PC + 1`, `PC + 2`. -/
def Obligations.StepRunsDecodedInstruction : Prop :=
  (∀ (s : State) (i : Instr), Running s → decode (fetchBytes s).1 = .ok (i, []) →
    step s = exec i (fetchBytes s).2 ∧
    (fetchBytes s).2 = { s with pc := s.pc + BitVec.ofNat 16 (encode i).length, cart := (fetchBytes s).2.cart }) ∧
  ∀ (s : State) (i : Instr) (rest : List Byte), Running s → FetchQuiet s →
    decode [busValue s.pc s, busValue (s.pc + 1) s, busValue (s.pc + 2) s] = .ok (i, rest) →
    step s = exec i { s with pc := s.pc + BitVec.ofNat 16 (encode i).length }

/-- `SystemStep` (R160): no step when halted; one clocked cycle and no CPU change when waiting; else one instruction. -/
def Obligations.SystemStepCases : Prop :=
  ∀ s : State, s.inputs = [] →
    (∀ op addr, s.halted = some (op, addr) → step s = .fault (.halted op addr)) ∧
    (s.halted = none → s.video.waiting = true →
      step s = .next (busClock 1 s) ∧ SameCpu s (busClock 1 s) ∧ (busClock 1 s).ram = s.ram ∧ (busClock 1 s).cart = s.cart) ∧
    (s.halted = none → s.video.waiting = false → step s = exec (fetchInstr s).1 (fetchInstr s).2)

/-- Illegal opcode (R139, R162, R452): the step that fetches one sets `halted` to the byte and its address and moves `PC` past it; nothing
else changes and nothing is clocked. -/
def Obligations.IllegalOpcodeHaltsTheCore : Prop :=
  (∀ (op : Byte) (s : State), illegalBytes.contains op = true →
    exec (.illegal op) s = .next { s with halted := some (op, s.pc - 1) }) ∧
  ∀ s : State, Running s → illegalBytes.contains (busValue s.pc s) = true →
    step s = .next { s with pc := s.pc + 1, halted := some (busValue s.pc s, s.pc) }

/-- No instruction faults or is refused, and a step stops in a halted state only (R160, R454, R458). -/
def Obligations.OnlyHaltedStatesStop : Prop :=
  (∀ (i : Instr) (s : State), ∃ t, exec i s = .next t) ∧
  ∀ s : State, (∃ t, step s = .next t) ∨
    ∃ op addr, (hostTurn s).halted = some (op, addr) ∧ step s = .fault (.halted op addr)

/-! ### Loads, stores, transfers -/

/-- LDA, LDX, LDY (R201, R202, R203), every mode. `(readOperand o s).1` is `M`; `(readOperand o s).2` is `s` but for a bank select. -/
def Obligations.LoadsWriteRegisterAndFlags : Prop :=
  ∀ (i : Instr) (s : State),
    (i.mnemonic = .lda → ∃ o, i.operand = some o ∧ exec i s = .next (busClock (readCount o s)
      { (readOperand o s).2 with
        a := (readOperand o s).1, z := (readOperand o s).1 == 0, n := (readOperand o s).1.getLsbD 7 })) ∧
    (i.mnemonic = .ldx → ∃ o, i.operand = some o ∧ exec i s = .next (busClock (readCount o s)
      { (readOperand o s).2 with
        x := (readOperand o s).1, z := (readOperand o s).1 == 0, n := (readOperand o s).1.getLsbD 7 })) ∧
    (i.mnemonic = .ldy → ∃ o, i.operand = some o ∧ exec i s = .next (busClock (readCount o s)
      { (readOperand o s).2 with
        y := (readOperand o s).1, z := (readOperand o s).1 == 0, n := (readOperand o s).1.getLsbD 7 }))

/-- STA, STX, STY (R204, R205, R206), every mode: one bus write, no flag, no page-cross penalty. -/
def Obligations.StoresWriteTheBus : Prop :=
  ∀ (i : Instr) (s : State),
    (i.mnemonic = .sta → ∃ o, i.operand = some o ∧
      exec i s = .next (busClock (storeCycles o) (busWrite (effectiveAddress o s) s.a s))) ∧
    (i.mnemonic = .stx → ∃ o, i.operand = some o ∧
      exec i s = .next (busClock (storeCycles o) (busWrite (effectiveAddress o s) s.x s))) ∧
    (i.mnemonic = .sty → ∃ o, i.operand = some o ∧
      exec i s = .next (busClock (storeCycles o) (busWrite (effectiveAddress o s) s.y s)))

/-- TAX, TAY, TXA, TYA, TSX, TXS (R207 to R212): TXS alone writes no flag. -/
def Obligations.TransfersCopyRegisters : Prop :=
  ∀ s : State,
    exec .tax s = .next (busClock 2 { s with x := s.a, z := s.a == 0, n := s.a.getLsbD 7 }) ∧
    exec .tay s = .next (busClock 2 { s with y := s.a, z := s.a == 0, n := s.a.getLsbD 7 }) ∧
    exec .txa s = .next (busClock 2 { s with a := s.x, z := s.x == 0, n := s.x.getLsbD 7 }) ∧
    exec .tya s = .next (busClock 2 { s with a := s.y, z := s.y == 0, n := s.y.getLsbD 7 }) ∧
    exec .tsx s = .next (busClock 2 { s with x := s.sp, z := s.sp == 0, n := s.sp.getLsbD 7 }) ∧
    exec .txs s = .next (busClock 2 { s with sp := s.x })

/-! ### Arithmetic -/

/-- ADC with `D = 0` (R221), every mode. `V` follows the decided V_RULE (log entry 12). -/
def Obligations.AdcBinaryResult : Prop :=
  ∀ (i : Instr) (s : State), i.mnemonic = .adc → s.d = false → ∃ o, i.operand = some o ∧
    let m := (readOperand o s).1
    let sum := s.a.toNat + m.toNat + s.c.toNat
    let r := BitVec.ofNat 8 sum
    exec i s = .next (busClock (readCount o s)
      { (readOperand o s).2 with
        a := r, c := decide (256 ≤ sum), v := ((s.a ^^^ r) &&& (m ^^^ r)).getLsbD 7, z := r == 0, n := r.getLsbD 7 })

/-- SBC with `D = 0` (R223), every mode: `C = 1` after it means no borrow. `V` follows the decided V_RULE (log entry
12). -/
def Obligations.SbcBinaryResult : Prop :=
  ∀ (i : Instr) (s : State), i.mnemonic = .sbc → s.d = false → ∃ o, i.operand = some o ∧
    let m := (readOperand o s).1
    let diff : Int := (s.a.toNat : Int) - m.toNat - (!s.c).toNat
    let r := BitVec.ofInt 8 diff
    exec i s = .next (busClock (readCount o s)
      { (readOperand o s).2 with
        a := r, c := decide (0 ≤ diff), v := ((s.a ^^^ m) &&& (s.a ^^^ r)).getLsbD 7, z := r == 0, n := r.getLsbD 7 })

/-- ADC and SBC with `D = 1` on operands whose digits are all 0 to 9: the decimal sum or difference modulo 100, `C` the hundreds
carry or no borrow, `V` of the binary operation, `Z` and `N` from the result (R221 to R224; the spec marks the modulo-100
reading as derived, and `V` rests on log entry 10). -/
def Obligations.DecimalResultOfValidDigits : Prop :=
  ∀ (i : Instr) (s : State), s.d = true → isBcd s.a = true →
    (i.mnemonic = .adc → ∃ o, i.operand = some o ∧
      let m := (readOperand o s).1
      let total := bcdValue s.a + bcdValue m + s.c.toNat
      let r := bcdByte (total % 100)
      let bin := BitVec.ofNat 8 (s.a.toNat + m.toNat + s.c.toNat)
      (isBcd m = true → exec i s = .next (busClock (readCount o s)
        { (readOperand o s).2 with
          a := r, c := decide (100 ≤ total), v := ((s.a ^^^ bin) &&& (m ^^^ bin)).getLsbD 7, z := r == 0
          n := r.getLsbD 7 }))) ∧
    (i.mnemonic = .sbc → ∃ o, i.operand = some o ∧
      let m := (readOperand o s).1
      let total : Int := (bcdValue s.a : Int) - bcdValue m - (!s.c).toNat
      let r := bcdByte (total % 100).toNat
      let bin := BitVec.ofInt 8 ((s.a.toNat : Int) - m.toNat - (!s.c).toNat)
      (isBcd m = true → exec i s = .next (busClock (readCount o s)
        { (readOperand o s).2 with
          a := r, c := decide (0 ≤ total), v := ((s.a ^^^ m) &&& (s.a ^^^ bin)).getLsbD 7, z := r == 0
          n := r.getLsbD 7 })))

/-- ADC and SBC with `D = 1` and a digit above 9 complete: result and carry are free values (the model's choice, log entry 9,
after "a model treats the result for such operands as any value", R222), `Z` and `N` are computed from the free result, `V` as
for any operands (log entry 10). It holds for every value of the counter. -/
def Obligations.DecimalResultOfInvalidDigitsIsFree : Prop :=
  ∀ (i : Instr) (s : State), s.d = true →
    (i.mnemonic = .adc → ∃ o, i.operand = some o ∧
      let m := (readOperand o s).1
      let r := Config.freeByte s.freeCount
      let bin := BitVec.ofNat 8 (s.a.toNat + m.toNat + s.c.toNat)
      ((isBcd s.a && isBcd m) = false → exec i s = .next (busClock (readCount o s)
        { (readOperand o s).2 with
          a := r, c := Config.freeCarry s.freeCount, v := ((s.a ^^^ bin) &&& (m ^^^ bin)).getLsbD 7, z := r == 0
          n := r.getLsbD 7, freeCount := s.freeCount + 1 }))) ∧
    (i.mnemonic = .sbc → ∃ o, i.operand = some o ∧
      let m := (readOperand o s).1
      let r := Config.freeByte s.freeCount
      let bin := BitVec.ofInt 8 ((s.a.toNat : Int) - m.toNat - (!s.c).toNat)
      ((isBcd s.a && isBcd m) = false → exec i s = .next (busClock (readCount o s)
        { (readOperand o s).2 with
          a := r, c := Config.freeCarry s.freeCount, v := ((s.a ^^^ m) &&& (s.a ^^^ bin)).getLsbD 7, z := r == 0
          n := r.getLsbD 7, freeCount := s.freeCount + 1 })))

/-- What `V` means, and SBC as ADC: in binary mode `V` is signed overflow of the addition or subtraction, and SBC of `M` is ADC of
`M ^ 0xFF` in result and in all flags (R220, R221, R223; V_RULE is log entry 12). -/
def Obligations.OverflowIsSignedOverflow : Prop :=
  (∀ (a m : Byte) (c : Bool), overflowAdd a m (binarySum a m c) =
    decide (a.toInt + m.toInt + c.toNat < -128 ∨ 127 < a.toInt + m.toInt + c.toNat)) ∧
  (∀ (a m : Byte) (b : Bool), overflowSub a m (binaryDiff a m b) =
    decide (a.toInt - m.toInt - b.toNat < -128 ∨ 127 < a.toInt - m.toInt - b.toNat)) ∧
  ∀ (m : Byte) (s : State), s.d = false → sbc m s = adc (m ^^^ 0xFF) s

/-- CMP, CPX, CPY (R225 to R228), every mode: `C = (R ≥ M)` unsigned, `Z = (R = M)`, `N` bit 7 of the difference. -/
def Obligations.ComparesSetFlags : Prop :=
  ∀ (i : Instr) (s : State),
    (i.mnemonic = .cmp → ∃ o, i.operand = some o ∧ exec i s = .next (busClock (readCount o s)
      { (readOperand o s).2 with
        c := decide ((readOperand o s).1.toNat ≤ s.a.toNat), z := s.a == (readOperand o s).1
        n := (s.a - (readOperand o s).1).getLsbD 7 })) ∧
    (i.mnemonic = .cpx → ∃ o, i.operand = some o ∧ exec i s = .next (busClock (readCount o s)
      { (readOperand o s).2 with
        c := decide ((readOperand o s).1.toNat ≤ s.x.toNat), z := s.x == (readOperand o s).1
        n := (s.x - (readOperand o s).1).getLsbD 7 })) ∧
    (i.mnemonic = .cpy → ∃ o, i.operand = some o ∧ exec i s = .next (busClock (readCount o s)
      { (readOperand o s).2 with
        c := decide ((readOperand o s).1.toNat ≤ s.y.toNat), z := s.y == (readOperand o s).1
        n := (s.y - (readOperand o s).1).getLsbD 7 }))

/-- INC and DEC of memory (R229, R230), every mode: one read, one write to the same address, `Z` and `N`. -/
def Obligations.IncDecMemory : Prop :=
  ∀ (i : Instr) (s : State),
    (i.mnemonic = .inc → ∃ o, i.operand = some o ∧
      let r := (readOperand o s).1 + 1
      exec i s = .next (busClock (modifyCycles o)
        { busWrite (effectiveAddress o s) r (readOperand o s).2 with z := r == 0, n := r.getLsbD 7 })) ∧
    (i.mnemonic = .dec → ∃ o, i.operand = some o ∧
      let r := (readOperand o s).1 - 1
      exec i s = .next (busClock (modifyCycles o)
        { busWrite (effectiveAddress o s) r (readOperand o s).2 with z := r == 0, n := r.getLsbD 7 }))

/-- INX, INY, DEX, DEY (R231 to R234). -/
def Obligations.IncDecRegisters : Prop :=
  ∀ s : State,
    exec .inx s = .next (busClock 2 { s with x := s.x + 1, z := s.x + 1 == 0, n := (s.x + 1).getLsbD 7 }) ∧
    exec .iny s = .next (busClock 2 { s with y := s.y + 1, z := s.y + 1 == 0, n := (s.y + 1).getLsbD 7 }) ∧
    exec .dex s = .next (busClock 2 { s with x := s.x - 1, z := s.x - 1 == 0, n := (s.x - 1).getLsbD 7 }) ∧
    exec .dey s = .next (busClock 2 { s with y := s.y - 1, z := s.y - 1 == 0, n := (s.y - 1).getLsbD 7 })

/-! ### Logic, shifts -/

/-- AND, ORA, EOR (R241, R242, R243) and BIT (R244), every mode. -/
def Obligations.LogicAndBitTest : Prop :=
  ∀ (i : Instr) (s : State),
    (i.mnemonic = .and → ∃ o, i.operand = some o ∧
      let r := s.a &&& (readOperand o s).1
      exec i s = .next (busClock (readCount o s) { (readOperand o s).2 with a := r, z := r == 0, n := r.getLsbD 7 })) ∧
    (i.mnemonic = .ora → ∃ o, i.operand = some o ∧
      let r := s.a ||| (readOperand o s).1
      exec i s = .next (busClock (readCount o s) { (readOperand o s).2 with a := r, z := r == 0, n := r.getLsbD 7 })) ∧
    (i.mnemonic = .eor → ∃ o, i.operand = some o ∧
      let r := s.a ^^^ (readOperand o s).1
      exec i s = .next (busClock (readCount o s) { (readOperand o s).2 with a := r, z := r == 0, n := r.getLsbD 7 })) ∧
    (i.mnemonic = .bit → ∃ o, i.operand = some o ∧
      let m := (readOperand o s).1
      exec i s = .next (busClock (readCount o s)
        { (readOperand o s).2 with z := s.a &&& m == 0, n := m.getLsbD 7, v := m.getLsbD 6 }))

/-- ASL, LSR, ROL, ROR (R245 to R248; `shiftResult`, `shiftCarry` in Safety.lean write out `R` and the bit shifted out). Memory forms: one
read, one write to the same address, no page-cross penalty. Accumulator forms: no bus access. -/
def Obligations.ShiftsAndRotates : Prop :=
  (∀ (i : Instr) (o : Operand) (s : State),
    (i.mnemonic = .asl ∨ i.mnemonic = .lsr ∨ i.mnemonic = .rol ∨ i.mnemonic = .ror) → i.operand = some o →
    let m := (readOperand o s).1
    let r := shiftResult i.mnemonic m s.c
    exec i s = .next (busClock (modifyCycles o)
      { busWrite (effectiveAddress o s) r (readOperand o s).2 with
        c := shiftCarry i.mnemonic m, z := r == 0, n := r.getLsbD 7 })) ∧
  ∀ (i : Instr) (s : State), i = .aslAcc ∨ i = .lsrAcc ∨ i = .rolAcc ∨ i = .rorAcc →
    let r := shiftResult i.mnemonic s.a s.c
    exec i s = .next (busClock 2
      { s with a := r, c := shiftCarry i.mnemonic s.a, z := r == 0, n := r.getLsbD 7 })

/-! ### Control flow -/

/-- The eight branches (R262 to R270): target `(nxt + d) mod 65536`, 2 cycles, 3 when taken, 4 when taken to another page than
`nxt`'s; no flag. -/
def Obligations.BranchesTestOneFlag : Prop :=
  ∀ (d : Byte) (s : State),
    let tgt : Addr := BitVec.ofInt 16 ((s.pc.toNat : Int) + d.toInt)
    let taken : Host.Outcome State Fault Refusal :=
      .next (busClock (if tgt.toNat / 256 ≠ s.pc.toNat / 256 then 4 else 3) { s with pc := tgt })
    let notTaken : Host.Outcome State Fault Refusal := .next (busClock 2 s)
    exec (.bcc d) s = (if s.c = false then taken else notTaken) ∧
    exec (.bcs d) s = (if s.c = true then taken else notTaken) ∧
    exec (.beq d) s = (if s.z = true then taken else notTaken) ∧
    exec (.bmi d) s = (if s.n = true then taken else notTaken) ∧
    exec (.bne d) s = (if s.z = false then taken else notTaken) ∧
    exec (.bpl d) s = (if s.n = false then taken else notTaken) ∧
    exec (.bvc d) s = (if s.v = false then taken else notTaken) ∧
    exec (.bvs d) s = (if s.v = true then taken else notTaken)

/-- JMP, absolute and indirect (R271, R172): the pointer's high byte comes from `(ptr + 1) mod 65536`, low byte read first. That the
pointer does not wrap in its page (JMP_IND_PAGE_WRAP false) is a choice: the spec's decision D10, the model's log entry 12. -/
def Obligations.JumpsSetThePc : Prop :=
  ∀ (p : Addr) (s : State),
    exec (.jmpAbs p) s = .next (busClock 3 { s with pc := p }) ∧
    let lo := busRead p s
    let hi := busRead (p + 1) lo.2
    exec (.jmpInd p) s = .next (busClock 5 { hi.2 with pc := wordOf hi.1 lo.1 })

/-- JSR and RTS (R272, R273), for every value of `SP`: the address of the JSR's last byte is pushed, high byte first; RTS pulls low byte
first and adds 1. -/
def Obligations.JsrPushesAndRtsPulls : Prop :=
  ∀ (p : Addr) (s : State),
    (let ret := s.pc - 1
     let s1 := busWrite (stackAddr s.sp) (hiByte ret) s
     let s2 := busWrite (stackAddr (s.sp - 1)) (loByte ret) s1
     exec (.jsr p) s = .next (busClock 6 { s2 with sp := s.sp - 2, pc := p })) ∧
    exec .rts s = .next (busClock 6
      { s with
        sp := s.sp + 2
        pc := wordOf (busValue (stackAddr (s.sp + 2)) s) (busValue (stackAddr (s.sp + 1)) s) + 1 })

/-- With the stack cells in RAM, RTS undoes JSR and RTI undoes BRK, wherever control is in between: `PC` (after JSR the next
instruction, after BRK the byte after the skipped one), `SP`, the flags and the registers come back; only `B` reads 1 after BRK and
RTI (R94, R272, R273, R293, R294, R456). -/
def Obligations.ReturnsUndoCalls : Prop :=
  (∀ (p q : Addr) (s : State), RamOk s.ram → 0x81 ≤ s.sp.toNat →
    ∃ t u, exec (.jsr p) s = .next t ∧ exec .rts { t with pc := q } = .next u ∧ u.pc = s.pc ∧ u.sp = s.sp ∧
      u.a = s.a ∧ u.x = s.x ∧ u.y = s.y ∧ statusWord u = statusWord s) ∧
  ∀ (q : Addr) (s : State), RamOk s.ram → 0x82 ≤ s.sp.toNat →
    ∃ t u, exec .brk s = .next t ∧ exec .rti { t with pc := q } = .next u ∧ u.pc = s.pc + 1 ∧ u.sp = s.sp ∧
      u.a = s.a ∧ u.x = s.x ∧ u.y = s.y ∧ statusWord u = statusWord { s with b := true }

/-! ### Stack, flags, system -/

/-- PHA and PHP (R178, R280, R281, R283): the byte goes to `0x0100 + SP`, then `SP` falls by 1 modulo 256; PHP pushes bits 5 and 4
as 1 and changes no flag. -/
def Obligations.PushesWriteTheStack : Prop :=
  ∀ s : State,
    (stackAddr s.sp).toNat = 0x0100 + s.sp.toNat ∧
    exec .pha s = .next (busClock 3 { busWrite (stackAddr s.sp) s.a s with sp := s.sp - 1 }) ∧
    exec .php s = .next (busClock 3
      { busWrite (stackAddr s.sp)
          (BitVec.ofBool s.n ++ BitVec.ofBool s.v ++ 1#1 ++ 1#1 ++
            BitVec.ofBool s.d ++ BitVec.ofBool s.i ++ BitVec.ofBool s.z ++ BitVec.ofBool s.c) s with
        sp := s.sp - 1 })

/-- PLA and PLP (R179, R280, R282, R284): `SP` rises by 1 modulo 256 and names the byte read; PLP loads every flag, bit 5
discarded. -/
def Obligations.PullsReadTheStack : Prop :=
  ∀ s : State,
    let m := busValue (stackAddr (s.sp + 1)) s
    exec .pla s = .next (busClock 4 { s with sp := s.sp + 1, a := m, z := m == 0, n := m.getLsbD 7 }) ∧
    exec .plp s = .next (busClock 4
      { s with
        sp := s.sp + 1
        c := m.getLsbD 0, z := m.getLsbD 1, i := m.getLsbD 2, d := m.getLsbD 3, b := m.getLsbD 4
        v := m.getLsbD 6, n := m.getLsbD 7 })

/-- CLC, SEC, CLI, SEI, CLD, SED, CLV write the one flag named, NOP nothing; 2 cycles each (R285 to R292). -/
def Obligations.FlagInstructionsAndNop : Prop :=
  ∀ s : State,
    exec .clc s = .next (busClock 2 { s with c := false }) ∧ exec .sec s = .next (busClock 2 { s with c := true }) ∧
    exec .cli s = .next (busClock 2 { s with i := false }) ∧ exec .sei s = .next (busClock 2 { s with i := true }) ∧
    exec .cld s = .next (busClock 2 { s with d := false }) ∧ exec .sed s = .next (busClock 2 { s with d := true }) ∧
    exec .clv s = .next (busClock 2 { s with v := false }) ∧ exec .nop s = .next (busClock 2 s)

/-- BRK (R293, R455): the return address `pc0 + 2` and the status byte with the old `I` and with bits 5 and 4 set are pushed, `B` and `I` are set, `PC`
comes from the vector at 0xFFFE. `PC` here is `pc0 + 1`. -/
def Obligations.BrkTakesTheVector : Prop :=
  ∀ s : State,
    let ret := s.pc + 1
    let s1 := busWrite (stackAddr s.sp) (hiByte ret) s
    let s2 := busWrite (stackAddr (s.sp - 1)) (loByte ret) s1
    let s3 := busWrite (stackAddr (s.sp - 2))
      (BitVec.ofBool s.n ++ BitVec.ofBool s.v ++ 1#1 ++ 1#1 ++
        BitVec.ofBool s.d ++ BitVec.ofBool s.i ++ BitVec.ofBool s.z ++ BitVec.ofBool s.c) s2
    exec .brk s = .next (busClock 7
      { s3 with
        sp := s.sp - 3, b := true, i := true
        pc := wordOf (busValue 0xFFFF#16 s) (busValue 0xFFFE#16 s) })

/-- RTI (R294): the status byte, then the return address with no `+ 1`. -/
def Obligations.RtiRestoresStatusAndPc : Prop :=
  ∀ s : State,
    let m := busValue (stackAddr (s.sp + 1)) s
    exec .rti s = .next (busClock 6
      { s with
        sp := s.sp + 3
        c := m.getLsbD 0, z := m.getLsbD 1, i := m.getLsbD 2, d := m.getLsbD 3, b := m.getLsbD 4
        v := m.getLsbD 6, n := m.getLsbD 7
        pc := wordOf (busValue (stackAddr (s.sp + 3)) s) (busValue (stackAddr (s.sp + 2)) s) })

/-! ### Frames -/

/-- Which mnemonics write which register and flag (the lists of R20 to R23, R26 to R32 and the accumulator forms of the shifts);
every other instruction leaves it. Only an illegal opcode sets `halted`. No instruction changes the launch parameters or the host's inputs,
and only a decimal ADC or SBC takes a free value. -/
def Obligations.OnlyListedInstructionsWriteEachRegister : Prop :=
  ∀ (i : Instr) (s t : State), exec i s = .next t →
    (writesA i = false → t.a = s.a) ∧ (writesX i = false → t.x = s.x) ∧ (writesY i = false → t.y = s.y) ∧
    (writesSp i = false → t.sp = s.sp) ∧ (writesC i = false → t.c = s.c) ∧ (writesZ i = false → t.z = s.z) ∧
    (writesN i = false → t.n = s.n) ∧ (writesI i = false → t.i = s.i) ∧ (writesD i = false → t.d = s.d) ∧
    (writesV i = false → t.v = s.v) ∧ (writesB i = false → t.b = s.b) ∧
    (i.mnemonic ≠ .illegal → t.halted = s.halted) ∧ t.launch = s.launch ∧ t.inputs = s.inputs ∧
    ((s.d = false ∨ i.mnemonic ≠ .adc ∧ i.mnemonic ≠ .sbc) → t.freeCount = s.freeCount)

/-- An instruction that stores nothing leaves every byte of RAM and of the image, and the chips move only by its clock call of 2 to
7 cycles (an illegal opcode clocks nothing) (R109, R161, R177). -/
def Obligations.InstructionsThatStoreNothingKeepMemory : Prop :=
  ∀ (i : Instr) (s t : State), storesNothing i = true → exec i s = .next t →
    (∀ p k, target p = .ram k → busValue p t = busValue p s) ∧
    t.ram = s.ram ∧ t.cart.image = s.cart.image ∧ t.cart.size = s.cart.size ∧
    (i.mnemonic ≠ .illegal → ∃ n, 2 ≤ n ∧ n ≤ 7 ∧
      t.video = videoClock s.launch.firstVisibleLine n s.video ∧ t.io = ioClock n s.io) ∧
    (i.mnemonic = .illegal → t.video = s.video ∧ t.io = s.io)

/-- The stores and the memory forms of the read-modify-write instructions change no RAM cell but the one their effective address reaches, and a
chip that address does not reach moves only by the clock call (R177, R204 to R206, R229, R230, R240). -/
def Obligations.StoresKeepOtherMemory : Prop :=
  ∀ (i : Instr) (o : Operand) (s t : State), RamOk s.ram → storesOperand i = true → i.operand = some o →
    exec i s = .next t →
    (∀ p k, target p = .ram k → target p ≠ target (effectiveAddress o s) → busValue p t = busValue p s) ∧
    ((∀ k, target (effectiveAddress o s) ≠ .ram k) → t.ram = s.ram) ∧
    t.cart.image = s.cart.image ∧ t.cart.size = s.cart.size ∧
    ((∀ k, target (effectiveAddress o s) ≠ .cart k) → t.cart = s.cart) ∧
    ∃ n, 3 ≤ n ∧ n ≤ 7 ∧
      ((∀ r, target (effectiveAddress o s) ≠ .video r) →
        t.video = videoClock s.launch.firstVisibleLine n s.video) ∧
      ((∀ r, target (effectiveAddress o s) ≠ .io r) → t.io = ioClock n s.io)

/-- PHA, PHP, JSR, BRK change no RAM cell but those that `0x0100 + SP` downward names, and move `SP` down by the count of bytes pushed; no
bank is selected, and the I/O chip moves only by the clock call; so does the video chip where every stack address is RAM (R94,
R178, R272, R293). -/
def Obligations.PushesKeepOtherMemory : Prop :=
  ∀ (i : Instr) (s t : State), RamOk s.ram → 0 < pushCount i → exec i s = .next t →
    (∀ p k, target p = .ram k →
      (∀ j, j < pushCount i → target p ≠ target (stackAddr (s.sp - BitVec.ofNat 8 j))) →
      busValue p t = busValue p s) ∧
    t.sp = s.sp - BitVec.ofNat 8 (pushCount i) ∧ t.cart = s.cart ∧
    ∃ n, 3 ≤ n ∧ n ≤ 7 ∧ t.io = ioClock n s.io ∧
      (0x7F + pushCount i ≤ s.sp.toNat → t.video = videoClock s.launch.firstVisibleLine n s.video)

/-- No step changes a byte of the cartridge image or its size (R102). -/
def Obligations.CartridgeImageNeverChanges : Prop :=
  ∀ s t : State, step s = .next t → t.cart.image = s.cart.image ∧ t.cart.size = s.cart.size

/-! ### Addresses, bus, cartridge, RAM -/

/-- The effective address and `crossed` of every mode that names a byte (R165 to R171, R173, R174), as numbers, that the operand is the
byte the bus reads there (for an immediate, the operand byte, R165), that an immediate is no store's operand and that the mode
`zpy` is LDX's and STX's alone (R168). -/
def Obligations.EffectiveAddressesOfTheModes : Prop :=
  ∀ (b : Byte) (p : Addr) (s : State),
    let at' : Nat → Nat := fun k => (busValue (BitVec.ofNat 16 k) s).toNat
    effectiveAddress (.imm b) s = s.pc - 1 ∧ readOperand (.imm b) s = (b, s) ∧
    (effectiveAddress (.zp b) s).toNat = b.toNat ∧
    (effectiveAddress (.zpx b) s).toNat = (b.toNat + s.x.toNat) % 256 ∧
    (effectiveAddress (.zpy b) s).toNat = (b.toNat + s.y.toNat) % 256 ∧
    effectiveAddress (.abs p) s = p ∧
    (effectiveAddress (.absx p) s).toNat = (p.toNat + s.x.toNat) % 65536 ∧
    (effectiveAddress (.absy p) s).toNat = (p.toNat + s.y.toNat) % 65536 ∧
    (let z := (b.toNat + s.x.toNat) % 256
     (effectiveAddress (.indx b) s).toNat = at' z + 256 * at' ((z + 1) % 256)) ∧
    (let base := at' b.toNat + 256 * at' ((b.toNat + 1) % 256)
     (effectiveAddress (.indy b) s).toNat = (base + s.y.toNat) % 65536 ∧
     pageCrossed (.indy b) s = decide ((base + s.y.toNat) % 65536 / 256 ≠ base / 256)) ∧
    pageCrossed (.absx p) s = decide ((p.toNat + s.x.toNat) % 65536 / 256 ≠ p.toNat / 256) ∧
    pageCrossed (.absy p) s = decide ((p.toNat + s.y.toNat) % 65536 / 256 ≠ p.toNat / 256) ∧
    pageCrossed (.imm b) s = false ∧ pageCrossed (.zp b) s = false ∧ pageCrossed (.zpx b) s = false ∧
    pageCrossed (.zpy b) s = false ∧ pageCrossed (.abs p) s = false ∧ pageCrossed (.indx b) s = false ∧
    (∀ o, (∀ w, o ≠ .imm w) → readOperand o s = busRead (effectiveAddress o s) s) ∧
    ∀ i : Instr, (i.operand = some (.imm b) → storesOperand i = false) ∧
      (i.operand = some (.zpy b) → i.mnemonic = .ldx ∨ i.mnemonic = .stx)

/-- The map of R92, which the spec derives from R87 to R91, and that zero page 0x80 to 0xFF and stack addresses 0x0180 to 0x01FF
name the same 128 cells (R94, derived as well). -/
def Obligations.AddressDecodeMap : Prop :=
  (∀ p : Addr,
    (p.getLsbD 12 = true → target p = .cart (p.extractLsb' 0 12)) ∧
    (p.getLsbD 12 = false → p.getLsbD 7 = false → target p = .video (p.extractLsb' 0 6)) ∧
    (p.getLsbD 12 = false → p.getLsbD 9 = false → p.getLsbD 7 = true → target p = .ram (p.extractLsb' 0 7)) ∧
    (p.getLsbD 12 = false → p.getLsbD 9 = true → p.getLsbD 7 = true → target p = .io (p.extractLsb' 0 5))) ∧
  ∀ k : BitVec 7, target (0x0080#16 + k.setWidth 16) = .ram k ∧ target (0x0180#16 + k.setWidth 16) = .ram k ∧
    target (stackAddr (0x80#8 + k.setWidth 8)) = .ram k ∧ target (zeroPage (0x80#8 + k.setWidth 8)) = .ram k

/-- The cartridge window (R101 to R105): what a read returns for each size, the two hot spots of an 8 KB image for reads and writes,
that a write changes no byte, and that selecting twice or switching there and back changes nothing. -/
def Obligations.CartridgeWindowAndHotSpots : Prop :=
  (∀ (p : Addr) (w : Byte) (s : State), p.getLsbD 12 = true →
    let off := (p.extractLsb' 0 12).toNat
    let bank : Bool → State := fun k => { s with cart := { s.cart with bank := k } }
    (s.cart.size = .kb8 → off = 0xFF8 → busRead p s = (0, bank false) ∧ busWrite p w s = bank false) ∧
    (s.cart.size = .kb8 → off = 0xFF9 → busRead p s = (0, bank true) ∧ busWrite p w s = bank true) ∧
    (s.cart.size = .kb8 → off ≠ 0xFF8 → off ≠ 0xFF9 →
      busRead p s = (s.cart.image.read (s.cart.bank.toNat * 4096 + off), s) ∧ busWrite p w s = s) ∧
    (s.cart.size = .kb4 → busRead p s = (s.cart.image.read off, s) ∧ busWrite p w s = s) ∧
    (s.cart.size = .kb2 → busRead p s = (s.cart.image.read (off % 2048), s) ∧ busWrite p w s = s)) ∧
  ∀ (p q : Addr) (w w' : Byte) (s : State), s.cart.size = .kb8 → target p = .cart 0xFF8 → target q = .cart 0xFF9 →
    busWrite p w' (busWrite p w s) = busWrite p w s ∧ busWrite q w' (busWrite q w s) = busWrite q w s ∧
    (s.cart.bank = false → busWrite p w' (busWrite q w s) = s) ∧ (s.cart.bank = true → busWrite q w' (busWrite p w s) = s)

/-- RAM is memory (R93), wherever its cells are mirrored: after a write to a cell every address reads as before except those of the
cell; and no read changes the state except at a hot spot (R109). -/
def Obligations.RamReadAfterWrite : Prop :=
  (∀ (p q : Addr) (w : Byte) (k : BitVec 7) (s : State), RamOk s.ram → target p = .ram k →
    busValue q (busWrite p w s) = (if target q = .ram k then w else busValue q s) ∧
    busWrite p w s = { s with ram := (busWrite p w s).ram }) ∧
  ∀ (p : Addr) (s : State), (∀ off, target p = .cart off → s.cart.hot off = false) → busRead p s = (busValue p s, s)

/-- Reads of the video chip and of the I/O chip (R349, R423): the collision registers, the two input lines, SWCHA, SWCHB, INTIM; every other number reads
0. Which pairs 0x06 and 0x07 hold follows R349 and R350 against the wording of D34 and C1 (log entry 15). -/
def Obligations.DeviceReadRegisters : Prop :=
  (∀ (p : Addr) (s : State),
    (∀ r, target p = .video r → busRead p s = (videoRead r s.video, s)) ∧
    (∀ r, target p = .io r → busRead p s = (ioRead r s.io, s))) ∧
  (∀ s : Video,
    let two : Bool → Bool → Byte := fun hi lo => BitVec.ofNat 8 (hi.toNat * 128 + lo.toNat * 64)
    videoRead 0x00 s = two s.cx.m0p1 s.cx.m0p0 ∧ videoRead 0x01 s = two s.cx.m1p0 s.cx.m1p1 ∧
    videoRead 0x02 s = two s.cx.p0pf s.cx.p0bl ∧ videoRead 0x03 s = two s.cx.p1pf s.cx.p1bl ∧
    videoRead 0x04 s = two s.cx.m0pf s.cx.m0bl ∧ videoRead 0x05 s = two s.cx.m1pf s.cx.m1bl ∧
    videoRead 0x06 s = two s.cx.blpf false ∧ videoRead 0x07 s = two s.cx.p0p1 s.cx.m0m1 ∧
    videoRead 0x0C s = s.inpt4 ∧ videoRead 0x0D s = s.inpt5 ∧
    ∀ r : BitVec 6, (8 ≤ r.toNat ∧ r.toNat ≤ 11 ∨ 14 ≤ r.toNat) → videoRead r s = 0) ∧
  ∀ t : Io, ioRead 0x00 t = t.swcha ∧ ioRead 0x02 t = t.swchb ∧
    ioRead 0x04 t = BitVec.ofNat 8 (t.timerRaw / 2 ^ t.prescale.shift % 256) ∧
    ∀ r : BitVec 5, r ≠ 0x00 → r ≠ 0x02 → r ≠ 0x04 → ioRead r t = 0

/-! ### Video chip registers -/

/-- The write registers that only store (R313, R316, R318 to R321, R326, R328, R330, R331): what each stores, and that it stores nothing else. -/
def Obligations.VideoLatchRegisters : Prop :=
  ∀ (w : Byte) (s : Video),
    videoWrite 0x01 w s = { s with vblankReg := w } ∧
    videoWrite 0x04 w s = { s with nusiz := { s.nusiz with p0 := w } } ∧
    videoWrite 0x05 w s = { s with nusiz := { s.nusiz with p1 := w } } ∧
    videoWrite 0x06 w s = { s with colup := { s.colup with p0 := w } } ∧
    videoWrite 0x07 w s = { s with colup := { s.colup with p1 := w } } ∧
    videoWrite 0x08 w s = { s with colupf := w } ∧ videoWrite 0x09 w s = { s with colubk := w } ∧
    videoWrite 0x0A w s = { s with ctrlpf := w } ∧
    videoWrite 0x0B w s = { s with refp := { s.refp with p0 := w.getLsbD 3 } } ∧
    videoWrite 0x0C w s = { s with refp := { s.refp with p1 := w.getLsbD 3 } } ∧
    videoWrite 0x0D w s = { s with pf0 := w } ∧ videoWrite 0x0E w s = { s with pf1 := w } ∧
    videoWrite 0x0F w s = { s with pf2 := w } ∧
    videoWrite 0x15 w s = { s with aud := { s.aud with audc0 := w } } ∧
    videoWrite 0x16 w s = { s with aud := { s.aud with audc1 := w } } ∧
    videoWrite 0x17 w s = { s with aud := { s.aud with audf0 := w } } ∧
    videoWrite 0x18 w s = { s with aud := { s.aud with audf1 := w } } ∧
    videoWrite 0x19 w s = { s with aud := { s.aud with audv0 := w } } ∧
    videoWrite 0x1A w s = { s with aud := { s.aud with audv1 := w } } ∧
    videoWrite 0x1D w s = { s with enam := { s.enam with p0 := w.getLsbD 1 } } ∧
    videoWrite 0x1E w s = { s with enam := { s.enam with p1 := w.getLsbD 1 } } ∧
    (let n : Int := if w.toNat / 16 < 8 then w.toNat / 16 else (w.toNat / 16 : Int) - 16
     videoWrite 0x20 w s = { s with hmPending := { s.hmPending with p0 := n } } ∧
     videoWrite 0x21 w s = { s with hmPending := { s.hmPending with p1 := n } } ∧
     videoWrite 0x22 w s = { s with hmPending := { s.hmPending with m0 := n } } ∧
     videoWrite 0x23 w s = { s with hmPending := { s.hmPending with m1 := n } } ∧
     videoWrite 0x24 w s = { s with hmPending := { s.hmPending with bl := n } }) ∧
    videoWrite 0x25 w s = { s with vdelp := { s.vdelp with p0 := w.getLsbD 0 } } ∧
    videoWrite 0x26 w s = { s with vdelp := { s.vdelp with p1 := w.getLsbD 0 } } ∧
    videoWrite 0x27 w s = { s with vdelbl := w.getLsbD 0 }

/-- The strobes and the registers without effect (R312, R314, R315, R325, R332 to R336): VSYNC, WSYNC, the position strobes, HMOVE,
HMCLR, CXCLR; RSYNC, RESMP0, RESMP1 and 0x2D to 0x3F. The first clause ties a bus write at a video address to the register file (R83,
R310, R311). That HMOVE assigns (HMOVE_MODE) is a choice: the spec's decision D23, the model's log entry 12. -/
def Obligations.VideoStrobeRegisters : Prop :=
  (∀ (p : Addr) (w : Byte) (s : State) (r : BitVec 6), target p = .video r →
    busWrite p w s = { s with video := videoWrite r w s.video }) ∧
  ∀ (w : Byte) (s : Video),
    videoWrite 0x00 w s =
      (if w.getLsbD 1 = true then { s with hpos := 0, vpos := 0, events := Event.refresh :: s.events } else s) ∧
    videoWrite 0x02 w s = { s with wsyncLatch := true } ∧
    videoWrite 0x03 w s = s ∧ videoWrite 0x28 w s = s ∧ videoWrite 0x29 w s = s ∧
    (∀ r : BitVec 6, 0x2D ≤ r.toNat → videoWrite r w s = s) ∧
    videoWrite 0x10 w s = { s with armed := { s.armed with p0 := true } } ∧
    videoWrite 0x11 w s = { s with armed := { s.armed with p1 := true } } ∧
    videoWrite 0x12 w s = { s with armed := { s.armed with m0 := true } } ∧
    videoWrite 0x13 w s = { s with armed := { s.armed with m1 := true } } ∧
    videoWrite 0x14 w s = { s with armed := { s.armed with bl := true } } ∧
    videoWrite 0x2A w s = { s with hmApplied := s.hmPending } ∧
    videoWrite 0x2B w s = { s with hmPending := ⟨0, 0, 0, 0, 0⟩, hmApplied := ⟨0, 0, 0, 0, 0⟩ } ∧
    (∀ k ∈ Collisions.latches, k (videoWrite 0x2C w s).cx = false) ∧
    videoWrite 0x2C w s = { s with cx := (videoWrite 0x2C w s).cx }

/-- GRP0, GRP1, ENABL (R327, R329): the written value is kept; with the vertical delay on only the pending mark is set, with it off the
active value follows at once and the mark stays. -/
def Obligations.ShapeAndEnableWritesHonourDelay : Prop :=
  ∀ (w : Byte) (s : Video),
    videoWrite 0x1B w s =
      (if s.vdelp.p0 = true then
        { s with grpWritten := { s.grpWritten with p0 := w }, grpPending := { s.grpPending with p0 := true } }
      else { s with grpWritten := { s.grpWritten with p0 := w }, grpActive := { s.grpActive with p0 := w } }) ∧
    videoWrite 0x1C w s =
      (if s.vdelp.p1 = true then
        { s with grpWritten := { s.grpWritten with p1 := w }, grpPending := { s.grpPending with p1 := true } }
      else { s with grpWritten := { s.grpWritten with p1 := w }, grpActive := { s.grpActive with p1 := w } }) ∧
    videoWrite 0x1F w s =
      (if s.vdelbl = true then { s with enablWritten := w.getLsbD 1, enablPending := true }
      else { s with enablWritten := w.getLsbD 1, enablActive := w.getLsbD 1 })

/-! ### Scanline engine -/

/-- The playfield (R324): which register bit each column shows, the repeat and the mirror, for every register value. -/
def Obligations.PlayfieldPatternRepeatsOrMirrors : Prop :=
  ∀ s : Video,
    (∀ j, j < 4 → pfPattern s j = s.pf0.getLsbD (4 + j)) ∧
    (∀ j, j < 8 → pfPattern s (4 + j) = s.pf1.getLsbD (7 - j)) ∧
    (∀ j, j < 8 → pfPattern s (12 + j) = s.pf2.getLsbD j) ∧
    (s.ctrlpf.getLsbD 0 = false → ∀ j, j < 20 → pfPattern s (20 + j) = pfPattern s j) ∧
    (s.ctrlpf.getLsbD 0 = true → (∀ j, j < 20 → pfPattern s (20 + j) = pfPattern s (19 - j)) ∧
      ∀ j, j < 40 → pfPattern s (39 - j) = pfPattern s j)

/-- When an object's pixel is on (R376, R377, R378). That an object is drawn once per line, also in the copy modes (RENDER_COPIES
false), is a choice: the spec's decision D24, the model's log entry 12. -/
def Obligations.ObjectPixelTests : Prop :=
  ∀ s : Video,
    let left : Obj → Int := fun o => (s.startPos.get o : Int) - s.hmApplied.get o
    let d : Obj → Int := fun o => (s.hpos : Int) - left o
    let sc : Byte → Nat := fun w => if w.toNat % 8 = 5 then 2 else if w.toNat % 8 = 7 then 4 else 1
    let shape : Bool → Byte → Nat → Bool := fun reflect w k => if reflect then w.getLsbD k else w.getLsbD (7 - k)
    let run : Obj → Bool → Byte → Bool := fun o on w => on && decide (0 ≤ d o ∧ d o < 2 ^ (w.toNat / 16 % 4))
    layerOn s .p0 = (decide (0 ≤ d .p0 ∧ d .p0 < 8 * (sc s.nusiz.p0 : Int)) &&
      shape s.refp.p0 s.grpActive.p0 ((d .p0).toNat / sc s.nusiz.p0)) ∧
    layerOn s .p1 = (decide (0 ≤ d .p1 ∧ d .p1 < 8 * (sc s.nusiz.p1 : Int)) &&
      shape s.refp.p1 s.grpActive.p1 ((d .p1).toNat / sc s.nusiz.p1)) ∧
    layerOn s .m0 = run .m0 s.enam.p0 s.nusiz.p0 ∧ layerOn s .m1 = run .m1 s.enam.p1 s.nusiz.p1 ∧
    layerOn s .bl = run .bl s.enablActive s.ctrlpf ∧
    layerOn s .pf = pfPattern s ((s.hpos - 68) / 4)

/-- The compositor (R379, R380): the colour of the first object that is on in the order CTRLPF bit 2 selects, else the background. -/
def Obligations.CompositePriority : Prop :=
  ∀ s : Video,
    (s.ctrlpf.getLsbD 2 = false → composite s =
      (if layerOn s .p0 then s.colup.p0 else if layerOn s .m0 then s.colup.p0
       else if layerOn s .p1 then s.colup.p1 else if layerOn s .m1 then s.colup.p1
       else if layerOn s .bl then s.colupf else if layerOn s .pf then s.colupf else s.colubk)) ∧
    (s.ctrlpf.getLsbD 2 = true → composite s =
      (if layerOn s .pf then s.colupf else if layerOn s .bl then s.colupf
       else if layerOn s .p0 then s.colup.p0 else if layerOn s .m0 then s.colup.p0
       else if layerOn s .p1 then s.colup.p1 else if layerOn s .m1 then s.colup.p1 else s.colubk))

/-- One pixel tick (R370, R371, R374, R386): `set_pixel` from the counters before the increment, in the active area only; the counters; the WSYNC
latch falls at the line wrap; and every field
a tick has no business with is unchanged. -/
def Obligations.TickRendersThenCounts : Prop :=
  ∀ (fvl : Nat) (s : Video), s.hpos < 228 → s.vpos < 262 →
    let t := tick fvl s
    t.events = (if 68 ≤ s.hpos ∧ fvl ≤ s.vpos ∧ s.vpos < fvl + 192 then
      .setPixel (s.hpos - 68) (s.vpos - fvl) (composite s) :: s.events else s.events) ∧
    (s.hpos ≠ 227 → t.hpos = s.hpos + 1 ∧ t.vpos = s.vpos ∧ t.wsyncLatch = s.wsyncLatch) ∧
    (s.hpos = 227 → t.hpos = 0 ∧ t.vpos = (s.vpos + 1) % 262 ∧ t.wsyncLatch = false) ∧
    t = { s with
      hpos := t.hpos, vpos := t.vpos, wsyncLatch := t.wsyncLatch, events := t.events, cx := t.cx
      grpActive := t.grpActive, grpPending := t.grpPending, enablActive := t.enablActive, enablPending := t.enablPending }

/-- `CommitPending` runs at a line wrap and only there, whatever the delay latches hold (R374, R375, R490): no tick before the wrap shows
a pending shape or enable, the wrapping tick shows it and clears the mark. -/
def Obligations.PendingShapesCommitAtLineStart : Prop :=
  (∀ (fvl k : Nat) (s : Video), s.hpos + k < 228 →
    let t := ticks fvl k s
    t.grpActive = s.grpActive ∧ t.grpPending = s.grpPending ∧ t.enablActive = s.enablActive ∧
    t.enablPending = s.enablPending) ∧
  ∀ (fvl : Nat) (s : Video), s.hpos = 227 →
    let t := tick fvl s
    (∀ p, t.grpActive.get p = (if s.grpPending.get p then s.grpWritten.get p else s.grpActive.get p) ∧
      t.grpPending.get p = false) ∧
    t.enablActive = (if s.enablPending then s.enablWritten else s.enablActive) ∧ t.enablPending = false

/-- The collision latches (R381): each of the fifteen is OR-ed with its pair's overlap on active ticks; it survives every clock call and
every register write but CXCLR. -/
def Obligations.CollisionLatchesAreSticky : Prop :=
  (∀ (fvl : Nat) (s : Video),
    let active : Bool := decide (68 ≤ s.hpos ∧ fvl ≤ s.vpos ∧ s.vpos < fvl + 192)
    let on := layerOn s
    (tick fvl s).cx =
      ⟨s.cx.m0p1 || (active && on .m0 && on .p1), s.cx.m0p0 || (active && on .m0 && on .p0),
        s.cx.m1p0 || (active && on .m1 && on .p0), s.cx.m1p1 || (active && on .m1 && on .p1),
        s.cx.p0pf || (active && on .p0 && on .pf), s.cx.p0bl || (active && on .p0 && on .bl),
        s.cx.p1pf || (active && on .p1 && on .pf), s.cx.p1bl || (active && on .p1 && on .bl),
        s.cx.m0pf || (active && on .m0 && on .pf), s.cx.m0bl || (active && on .m0 && on .bl),
        s.cx.m1pf || (active && on .m1 && on .pf), s.cx.m1bl || (active && on .m1 && on .bl),
        s.cx.blpf || (active && on .bl && on .pf), s.cx.p0p1 || (active && on .p0 && on .p1),
        s.cx.m0m1 || (active && on .m0 && on .m1)⟩) ∧
  ∀ k ∈ Collisions.latches, ∀ s : Video, k s.cx = true →
    (∀ fvl n, k (videoClock fvl n s).cx = true) ∧
    ∀ (r : BitVec 6) (w : Byte), r ≠ 0x2C → k (videoWrite r w s).cx = true

/-- Frame geometry (R372): after `k` ticks the counters are `k` further along 262 lines of 228, so that 228 * 262 ticks come back to
the same place. -/
def Obligations.FrameIs262LinesOf228 : Prop :=
  ∀ (fvl : Nat) (s : Video), s.hpos < 228 → s.vpos < 262 →
    (∀ k, (ticks fvl k s).hpos = (s.vpos * 228 + s.hpos + k) % 228 ∧
      (ticks fvl k s).vpos = (s.vpos * 228 + s.hpos + k) / 228 % 262) ∧
    (ticks fvl (228 * 262) s).hpos = s.hpos ∧ (ticks fvl (228 * 262) s).vpos = s.vpos

/-- A clock call of `n` cycles (R388) is `3 * n` ticks, then the position commits, then the WSYNC latch transferred: events, latches, shapes and
counters are those of the ticks. Position strobes commit at its end (R389): the counter after the ticks plus 5 for a player, 4 for a
missile or the ball; an object that is not armed stays. -/
def Obligations.PositionStrobesCommitAfterTheClock : Prop :=
  (∀ (fvl n : Nat) (s : Video),
    videoClock fvl n s = { ticks fvl (3 * n) s with
      startPos := (videoClock fvl n s).startPos, armed := ⟨false, false, false, false, false⟩
      waiting := (ticks fvl (3 * n) s).wsyncLatch }) ∧
  ∀ (fvl n : Nat) (s : Video) (o : Obj), s.hpos < 228 →
    let lead := if o = .p0 ∨ o = .p1 then 5 else 4
    (s.armed.get o = true → (videoClock fvl n s).startPos.get o = (s.hpos + 3 * n) % 228 + lead) ∧
    (s.armed.get o = false → (videoClock fvl n s).startPos.get o = s.startPos.get o) ∧
    (videoClock fvl n s).armed.get o = false

/-- The `waiting` transfer (R390): `waiting` after a clock call is the latch as the call leaves it, which is the latch before unless a line
wrapped in the call. -/
def Obligations.WaitingIsTheLatchAfterTheClock : Prop :=
  ∀ (fvl n : Nat) (s : Video), s.hpos < 228 →
    let t := videoClock fvl n s
    t.waiting = (s.wsyncLatch && decide (s.hpos + 3 * n < 228)) ∧ t.waiting = t.wsyncLatch

/-- The WSYNC wait (R391, R392): from a waiting state the machine makes `(228 - hpos) / 3` waiting steps, at most 76; through all of them the CPU, RAM
and cartridge do not change, the timer runs, `waiting` stays 1 until the last, and then `hpos` is exactly 0 on the next line. -/
def Obligations.WsyncWaitEndsAtTheNextLine : Prop :=
  ∀ s : State, Inv s → s.inputs = [] → s.halted = none → s.video.waiting = true →
    let steps := (228 - s.video.hpos) / 3
    steps ≤ 76 ∧
    (∀ j, j ≤ steps → ∃ t, Host.Core.run Sys2Proof.core j s = .next t ∧ SameCpu s t ∧ t.ram = s.ram ∧ t.cart = s.cart ∧
      t.io = ioClock j s.io ∧ t.video.waiting = decide (j < steps) ∧
      (j < steps → t.video.hpos = s.video.hpos + 3 * j ∧ t.video.vpos = s.video.vpos)) ∧
    ∃ t, Host.Core.run Sys2Proof.core steps s = .next t ∧ t.video.hpos = 0 ∧
      t.video.vpos = (s.video.vpos + 1) % 262

/-! ### I/O and timer chip, host, reset -/

/-- The four timer addresses (R424, R426): a write there selects the prescale, reloads the counter at once and keeps the byte written; a write of any
other I/O register does nothing. -/
def Obligations.TimerWritesReloadTheCounter : Prop :=
  ∀ (p : Addr) (w : Byte) (s : State),
    (target p = .io 0x14 → busWrite p w s =
      { s with io := { s.io with prescale := .div1, timerWritten := w, timerRaw := w.toNat } }) ∧
    (target p = .io 0x15 → busWrite p w s =
      { s with io := { s.io with prescale := .div8, timerWritten := w, timerRaw := w.toNat * 8 } }) ∧
    (target p = .io 0x16 → busWrite p w s =
      { s with io := { s.io with prescale := .div64, timerWritten := w, timerRaw := w.toNat * 64 } }) ∧
    (target p = .io 0x17 → busWrite p w s =
      { s with io := { s.io with prescale := .div1024, timerWritten := w, timerRaw := w.toNat * 1024 } }) ∧
    ∀ r : BitVec 5, target p = .io r → (r.toNat < 0x14 ∨ 0x17 < r.toNat) → busWrite p w s = s

/-- The readable timer value after a write (R428; the spec marks the formula as derived from R426 and R429): `v` before any cycle, and
`v - 1 - (c - 1) div 2^timer_shift` modulo 256 once `c` cycles are clocked, for `c` up to the whole range. -/
def Obligations.TimerReadAfterCycles : Prop :=
  ∀ (k : Prescale) (w : Byte) (t : Io),
    (timerWrite k w t).intim = w ∧
    ∀ c, 1 ≤ c → c ≤ 256 * 2 ^ k.shift →
      (ioClock c (timerWrite k w t)).intim = BitVec.ofInt 8 ((w.toNat : Int) - 1 - ((c - 1) / 2 ^ k.shift : Nat))

/-- `IoClock` (R429): `n` cycles are subtracted modulo the prescaled range, which equals `n` single decrements. That the prescale
is kept after an underflow is a choice: the spec's decision D17, the model's log entry 11. -/
def Obligations.TimerCountsDownModuloItsRange : Prop :=
  (∀ (n : Nat) (t : Io), IoOk t → ((ioClock n t).timerRaw : Int) = ((t.timerRaw : Int) - n) % (256 * 2 ^ t.prescale.shift) ∧
    ioClock n t = { t with timerRaw := (ioClock n t).timerRaw }) ∧
  ∀ (n : Nat) (t : Io), IoOk t → ioClock 0 t = t ∧ ioClock (n + 1) t = ioClock n (ioClock 1 t)

/-- The host's input calls (R352, R432), each moves one line and nothing else. That they come as one list per step, made before
that step, is the model's choice (log entry 4), and so is that SetLine moves the unused bits of SWCHB too (log entry 16). -/
def Obligations.HostCallsMoveOneLine : Prop :=
  (∀ (s : State) (calls : List HostCall) (rest : List (List HostCall)), s.inputs = calls :: rest →
    step s = systemStep (hostCalls calls { s with inputs := rest })) ∧
  ∀ (s : State) (level : Bool),
    hostCall (.setFire .p0 level) s = { s with video := { s.video with inpt4 := if level then 0x00 else 0x80 } } ∧
    hostCall (.setFire .p1 level) s = { s with video := { s.video with inpt5 := if level then 0x00 else 0x80 } } ∧
    (∀ bit : Fin 8, ∃ w, hostCall (.setLine .swcha bit level) s = { s with io := { s.io with swcha := w } } ∧
      ∀ k, k < 8 → w.getLsbD k = if k = bit.val then level else s.io.swcha.getLsbD k) ∧
    (∀ bit : Fin 8, ∃ w, hostCall (.setLine .swchb bit level) s = { s with io := { s.io with swchb := w } } ∧
      ∀ k, k < 8 → w.getLsbD k = if k = bit.val then level else s.io.swchb.getLsbD k) ∧
    (∀ e ∈ ([(.p0, .right, 7), (.p0, .left, 6), (.p0, .down, 5), (.p0, .up, 4), (.p1, .right, 3), (.p1, .left, 2),
        (.p1, .down, 1), (.p1, .up, 0)] : List (Player × Direction × Fin 8)),
      hostCall (.setJoystick e.1 e.2.1 level) s = hostCall (.setLine .swcha e.2.2 (!level)) s) ∧
    ∀ e ∈ ([(.reset, 0), (.select, 1), (.colour, 3), (.difficulty0, 6), (.difficulty1, 7)] :
        List (ConsoleSwitch × Fin 8)),
      hostCall (.setSwitch e.1 level) s = hostCall (.setLine .swchb e.2 level) s

/-- The reset sequence (R75 to R78, R481, R482), from any state and for every launch: the fields of the tables, the image kept, `PC` from the vector at 0xFFFC
read through the reset bank. That the event history, the host's calls to come, the free-value counter and the launch
parameters are kept is the model's choice (log entries 3, 4, 7, 9, 14). -/
def Obligations.ResetLoadsTheTables : Prop :=
  ∀ s : State,
    let l := s.launch
    let cart : Cart := { s.cart with bank := l.resetBank }
    hostCall .reset s =
      { s with
        a := l.resetA, x := l.resetX, y := l.resetY, sp := l.resetSp
        pc := wordOf (cart.read 0xFFD#12) (cart.read 0xFFC#12)
        n := l.resetN, v := l.resetV, b := l.resetB, d := l.resetD, i := true, z := l.resetZ, c := l.resetC
        halted := none
        cart := cart
        ram := l.resetRam
        io := { swcha := 0xFF, swchb := 0xFF, timerRaw := l.resetTimerRaw, prescale := l.resetPrescale, timerWritten := 0 }
        video :=
          { hpos := 0, vpos := 0, wsyncLatch := false, waiting := false, nusiz := ⟨0, 0⟩, colup := ⟨0, 0⟩, colupf := 0
            colubk := 0, ctrlpf := 0, refp := ⟨false, false⟩, pf0 := 0, pf1 := 0, pf2 := 0, grpWritten := ⟨0, 0⟩
            grpActive := ⟨0, 0⟩, grpPending := ⟨false, false⟩, enam := ⟨false, false⟩, enablWritten := false
            enablActive := false, enablPending := false, hmPending := ⟨0, 0, 0, 0, 0⟩, hmApplied := ⟨0, 0, 0, 0, 0⟩
            vdelp := ⟨false, false⟩, vdelbl := false, startPos := ⟨0, 0, 0, 0, 0⟩
            armed := ⟨false, false, false, false, false⟩
            cx := ⟨false, false, false, false, false, false, false, false, false, false, false, false, false, false, false⟩
            inpt4 := 0x80, inpt5 := 0x80, vblankReg := 0, aud := ⟨0, 0, 0, 0, 0, 0⟩, events := s.video.events } }

/-! ### Whole-machine statements -/

/-- The invariant holds at reset. -/
def Obligations.InvariantHoldsAtReset : Prop := Inv State.reset

/-- THE INVARIANT IS KEPT BY EVERY STEP, from every state that meets it, whatever the host does in its turn: the memories stay
canonical, the counters and positions in range, `hpos` a multiple of 3, no strobe armed, `waiting` the latch, the timer in its prescaled
range (R40, R43, R48, R49, R60, R62, R389, R390, R392, R427). -/
def Obligations.InvariantKeptByEveryStep : Prop :=
  ∀ s t : State, Inv s → step s = .next t → Inv t

/-- The stored `B` is unobservable (R30): of two states that differ in `B` alone, either both steps stop with the same fault or both answer, in states
that differ at most in `B`. -/
def Obligations.BreakFlagIsUnobservable : Prop :=
  ∀ (s : State) (k : Bool),
    (∀ t, step s = .next t → ∃ k', step { s with b := k } = .next { t with b := k' }) ∧
    ∀ f, step s = .fault f → step { s with b := k } = .fault f

end
end

