-- ==== Sys2Proof/Laws/Io.lean ====
section
/-! SUPPORT. The I/O and timer chip: writes, clock calls and host calls keep the timer in its prescaled range. -/

namespace Sys2Proof.Machine

theorem Prescale.range_eq (p : Prescale) : p.range = 256 * 2 ^ p.shift := by
  rw [range, Nat.shiftLeft_eq]

theorem Prescale.range_pos (p : Prescale) : 256 ≤ p.range := by cases p <;> decide

theorem timerWrite_ok (p : Prescale) (w : Byte) (t : Io) : IoOk (timerWrite p w t) := by
  have hw := w.isLt
  cases p <;> simp [IoOk, timerWrite, Prescale.range, Prescale.shift, Nat.shiftLeft_eq] <;> omega

/-- A write of any I/O register keeps the timer in range (R424, R426). -/
theorem ioWrite_ok (i : BitVec 5) (w : Byte) {t : Io} (h : IoOk t) : IoOk (ioWrite i w t) := by
  unfold ioWrite; split <;> first | exact h | exact timerWrite_ok _ _ _

/-- A clock call leaves the timer in range (R429). -/
theorem ioClock_ok (n : Nat) (t : Io) : IoOk (ioClock n t) :=
  Nat.mod_lt _ (Nat.lt_of_lt_of_le (by decide) t.prescale.range_pos)

theorem setLine_ok (reg : InputReg) (k : Nat) (level : Bool) {t : Io} (h : IoOk t) : IoOk (setLine reg k level t) := by
  cases reg <;> exact h

@[simp] theorem ioClock_swcha (n : Nat) (t : Io) : (ioClock n t).swcha = t.swcha := rfl
@[simp] theorem ioClock_swchb (n : Nat) (t : Io) : (ioClock n t).swchb = t.swchb := rfl
@[simp] theorem ioClock_prescale (n : Nat) (t : Io) : (ioClock n t).prescale = t.prescale := rfl
@[simp] theorem ioClock_timerWritten (n : Nat) (t : Io) : (ioClock n t).timerWritten = t.timerWritten := rfl

/-- The timer after a clock call of at most one range (R429). -/
theorem ioClock_timerRaw {n : Nat} {t : Io} (h : IoOk t) (hn : n ≤ t.prescale.range) : (ioClock n t).timerRaw =
    if n ≤ t.timerRaw then t.timerRaw - n else t.timerRaw + t.prescale.range - n := by
  have hp := t.prescale.range_pos
  simp only [IoOk] at h
  simp only [ioClock]
  rcases Nat.lt_or_eq_of_le hn with hn | hn
  · rw [Nat.mod_eq_of_lt hn]
    split
    · rw [show t.timerRaw + (t.prescale.range - n) = (t.timerRaw - n) + t.prescale.range by omega, Nat.add_mod_right,
        Nat.mod_eq_of_lt (by omega)]
    · rw [Nat.mod_eq_of_lt (by omega)]; omega
  · rw [hn, Nat.mod_self, Nat.sub_zero, Nat.add_mod_right, Nat.mod_eq_of_lt h, if_neg (by omega)]; omega

end Sys2Proof.Machine
end

