-- ==== Sys2Proof/Laws/State.lean ====
section
/-! SUPPORT. One lemma per field for each named update of State: what the update writes and what it leaves alone. -/

namespace Sys2Proof.Machine

section
variable (w : Byte) (s : State)

@[simp] theorem setNZ_a : (setNZ w s).a = s.a := rfl
@[simp] theorem setNZ_x : (setNZ w s).x = s.x := rfl
@[simp] theorem setNZ_y : (setNZ w s).y = s.y := rfl
@[simp] theorem setNZ_sp : (setNZ w s).sp = s.sp := rfl
@[simp] theorem setNZ_pc : (setNZ w s).pc = s.pc := rfl
@[simp] theorem setNZ_n : (setNZ w s).n = w.getLsbD 7 := rfl
@[simp] theorem setNZ_v : (setNZ w s).v = s.v := rfl
@[simp] theorem setNZ_b : (setNZ w s).b = s.b := rfl
@[simp] theorem setNZ_d : (setNZ w s).d = s.d := rfl
@[simp] theorem setNZ_i : (setNZ w s).i = s.i := rfl
@[simp] theorem setNZ_z : (setNZ w s).z = (w == 0) := rfl
@[simp] theorem setNZ_c : (setNZ w s).c = s.c := rfl
@[simp] theorem setNZ_halted : (setNZ w s).halted = s.halted := rfl
@[simp] theorem setNZ_cart : (setNZ w s).cart = s.cart := rfl
@[simp] theorem setNZ_ram : (setNZ w s).ram = s.ram := rfl
@[simp] theorem setNZ_io : (setNZ w s).io = s.io := rfl
@[simp] theorem setNZ_video : (setNZ w s).video = s.video := rfl
@[simp] theorem setNZ_launch : (setNZ w s).launch = s.launch := rfl
@[simp] theorem setNZ_inputs : (setNZ w s).inputs = s.inputs := rfl
@[simp] theorem setNZ_freeCount : (setNZ w s).freeCount = s.freeCount := rfl

end

section
variable (w : Byte) (s : State)

@[simp] theorem setA_a : (setA w s).a = w := rfl
@[simp] theorem setA_x : (setA w s).x = s.x := rfl
@[simp] theorem setA_y : (setA w s).y = s.y := rfl
@[simp] theorem setA_sp : (setA w s).sp = s.sp := rfl
@[simp] theorem setA_pc : (setA w s).pc = s.pc := rfl
@[simp] theorem setA_n : (setA w s).n = w.getLsbD 7 := rfl
@[simp] theorem setA_v : (setA w s).v = s.v := rfl
@[simp] theorem setA_b : (setA w s).b = s.b := rfl
@[simp] theorem setA_d : (setA w s).d = s.d := rfl
@[simp] theorem setA_i : (setA w s).i = s.i := rfl
@[simp] theorem setA_z : (setA w s).z = (w == 0) := rfl
@[simp] theorem setA_c : (setA w s).c = s.c := rfl
@[simp] theorem setA_halted : (setA w s).halted = s.halted := rfl
@[simp] theorem setA_cart : (setA w s).cart = s.cart := rfl
@[simp] theorem setA_ram : (setA w s).ram = s.ram := rfl
@[simp] theorem setA_io : (setA w s).io = s.io := rfl
@[simp] theorem setA_video : (setA w s).video = s.video := rfl
@[simp] theorem setA_launch : (setA w s).launch = s.launch := rfl
@[simp] theorem setA_inputs : (setA w s).inputs = s.inputs := rfl
@[simp] theorem setA_freeCount : (setA w s).freeCount = s.freeCount := rfl

end

section
variable (w : Byte) (s : State)

@[simp] theorem setX_a : (setX w s).a = s.a := rfl
@[simp] theorem setX_x : (setX w s).x = w := rfl
@[simp] theorem setX_y : (setX w s).y = s.y := rfl
@[simp] theorem setX_sp : (setX w s).sp = s.sp := rfl
@[simp] theorem setX_pc : (setX w s).pc = s.pc := rfl
@[simp] theorem setX_n : (setX w s).n = w.getLsbD 7 := rfl
@[simp] theorem setX_v : (setX w s).v = s.v := rfl
@[simp] theorem setX_b : (setX w s).b = s.b := rfl
@[simp] theorem setX_d : (setX w s).d = s.d := rfl
@[simp] theorem setX_i : (setX w s).i = s.i := rfl
@[simp] theorem setX_z : (setX w s).z = (w == 0) := rfl
@[simp] theorem setX_c : (setX w s).c = s.c := rfl
@[simp] theorem setX_halted : (setX w s).halted = s.halted := rfl
@[simp] theorem setX_cart : (setX w s).cart = s.cart := rfl
@[simp] theorem setX_ram : (setX w s).ram = s.ram := rfl
@[simp] theorem setX_io : (setX w s).io = s.io := rfl
@[simp] theorem setX_video : (setX w s).video = s.video := rfl
@[simp] theorem setX_launch : (setX w s).launch = s.launch := rfl
@[simp] theorem setX_inputs : (setX w s).inputs = s.inputs := rfl
@[simp] theorem setX_freeCount : (setX w s).freeCount = s.freeCount := rfl

end

section
variable (w : Byte) (s : State)

@[simp] theorem setY_a : (setY w s).a = s.a := rfl
@[simp] theorem setY_x : (setY w s).x = s.x := rfl
@[simp] theorem setY_y : (setY w s).y = w := rfl
@[simp] theorem setY_sp : (setY w s).sp = s.sp := rfl
@[simp] theorem setY_pc : (setY w s).pc = s.pc := rfl
@[simp] theorem setY_n : (setY w s).n = w.getLsbD 7 := rfl
@[simp] theorem setY_v : (setY w s).v = s.v := rfl
@[simp] theorem setY_b : (setY w s).b = s.b := rfl
@[simp] theorem setY_d : (setY w s).d = s.d := rfl
@[simp] theorem setY_i : (setY w s).i = s.i := rfl
@[simp] theorem setY_z : (setY w s).z = (w == 0) := rfl
@[simp] theorem setY_c : (setY w s).c = s.c := rfl
@[simp] theorem setY_halted : (setY w s).halted = s.halted := rfl
@[simp] theorem setY_cart : (setY w s).cart = s.cart := rfl
@[simp] theorem setY_ram : (setY w s).ram = s.ram := rfl
@[simp] theorem setY_io : (setY w s).io = s.io := rfl
@[simp] theorem setY_video : (setY w s).video = s.video := rfl
@[simp] theorem setY_launch : (setY w s).launch = s.launch := rfl
@[simp] theorem setY_inputs : (setY w s).inputs = s.inputs := rfl
@[simp] theorem setY_freeCount : (setY w s).freeCount = s.freeCount := rfl

end

section
variable (r : Byte) (k u : Bool) (s : State)

@[simp] theorem setSum_a : (setSum r k u s).a = r := rfl
@[simp] theorem setSum_x : (setSum r k u s).x = s.x := rfl
@[simp] theorem setSum_y : (setSum r k u s).y = s.y := rfl
@[simp] theorem setSum_sp : (setSum r k u s).sp = s.sp := rfl
@[simp] theorem setSum_pc : (setSum r k u s).pc = s.pc := rfl
@[simp] theorem setSum_n : (setSum r k u s).n = r.getLsbD 7 := rfl
@[simp] theorem setSum_v : (setSum r k u s).v = u := rfl
@[simp] theorem setSum_b : (setSum r k u s).b = s.b := rfl
@[simp] theorem setSum_d : (setSum r k u s).d = s.d := rfl
@[simp] theorem setSum_i : (setSum r k u s).i = s.i := rfl
@[simp] theorem setSum_z : (setSum r k u s).z = (r == 0) := rfl
@[simp] theorem setSum_c : (setSum r k u s).c = k := rfl
@[simp] theorem setSum_halted : (setSum r k u s).halted = s.halted := rfl
@[simp] theorem setSum_cart : (setSum r k u s).cart = s.cart := rfl
@[simp] theorem setSum_ram : (setSum r k u s).ram = s.ram := rfl
@[simp] theorem setSum_io : (setSum r k u s).io = s.io := rfl
@[simp] theorem setSum_video : (setSum r k u s).video = s.video := rfl
@[simp] theorem setSum_launch : (setSum r k u s).launch = s.launch := rfl
@[simp] theorem setSum_inputs : (setSum r k u s).inputs = s.inputs := rfl
@[simp] theorem setSum_freeCount : (setSum r k u s).freeCount = s.freeCount := rfl

end

section
variable (r m : Byte) (s : State)

@[simp] theorem compare_a : (compare r m s).a = s.a := rfl
@[simp] theorem compare_x : (compare r m s).x = s.x := rfl
@[simp] theorem compare_y : (compare r m s).y = s.y := rfl
@[simp] theorem compare_sp : (compare r m s).sp = s.sp := rfl
@[simp] theorem compare_pc : (compare r m s).pc = s.pc := rfl
@[simp] theorem compare_n : (compare r m s).n = ((binaryDiff r m false).setWidth 8).getLsbD 7 := rfl
@[simp] theorem compare_v : (compare r m s).v = s.v := rfl
@[simp] theorem compare_b : (compare r m s).b = s.b := rfl
@[simp] theorem compare_d : (compare r m s).d = s.d := rfl
@[simp] theorem compare_i : (compare r m s).i = s.i := rfl
@[simp] theorem compare_z : (compare r m s).z = ((binaryDiff r m false).setWidth 8 == 0) := rfl
@[simp] theorem compare_c : (compare r m s).c = (!(binaryDiff r m false).getLsbD 8) := rfl
@[simp] theorem compare_halted : (compare r m s).halted = s.halted := rfl
@[simp] theorem compare_cart : (compare r m s).cart = s.cart := rfl
@[simp] theorem compare_ram : (compare r m s).ram = s.ram := rfl
@[simp] theorem compare_io : (compare r m s).io = s.io := rfl
@[simp] theorem compare_video : (compare r m s).video = s.video := rfl
@[simp] theorem compare_launch : (compare r m s).launch = s.launch := rfl
@[simp] theorem compare_inputs : (compare r m s).inputs = s.inputs := rfl
@[simp] theorem compare_freeCount : (compare r m s).freeCount = s.freeCount := rfl

end

section
variable (m : Byte) (s : State)

@[simp] theorem bitTest_a : (bitTest m s).a = s.a := rfl
@[simp] theorem bitTest_x : (bitTest m s).x = s.x := rfl
@[simp] theorem bitTest_y : (bitTest m s).y = s.y := rfl
@[simp] theorem bitTest_sp : (bitTest m s).sp = s.sp := rfl
@[simp] theorem bitTest_pc : (bitTest m s).pc = s.pc := rfl
@[simp] theorem bitTest_n : (bitTest m s).n = m.getLsbD 7 := rfl
@[simp] theorem bitTest_v : (bitTest m s).v = m.getLsbD 6 := rfl
@[simp] theorem bitTest_b : (bitTest m s).b = s.b := rfl
@[simp] theorem bitTest_d : (bitTest m s).d = s.d := rfl
@[simp] theorem bitTest_i : (bitTest m s).i = s.i := rfl
@[simp] theorem bitTest_z : (bitTest m s).z = ((s.a &&& m) == 0) := rfl
@[simp] theorem bitTest_c : (bitTest m s).c = s.c := rfl
@[simp] theorem bitTest_halted : (bitTest m s).halted = s.halted := rfl
@[simp] theorem bitTest_cart : (bitTest m s).cart = s.cart := rfl
@[simp] theorem bitTest_ram : (bitTest m s).ram = s.ram := rfl
@[simp] theorem bitTest_io : (bitTest m s).io = s.io := rfl
@[simp] theorem bitTest_video : (bitTest m s).video = s.video := rfl
@[simp] theorem bitTest_launch : (bitTest m s).launch = s.launch := rfl
@[simp] theorem bitTest_inputs : (bitTest m s).inputs = s.inputs := rfl
@[simp] theorem bitTest_freeCount : (bitTest m s).freeCount = s.freeCount := rfl

end

section
variable (w : Byte) (s : State)

@[simp] theorem loadStatus_a : (loadStatus w s).a = s.a := rfl
@[simp] theorem loadStatus_x : (loadStatus w s).x = s.x := rfl
@[simp] theorem loadStatus_y : (loadStatus w s).y = s.y := rfl
@[simp] theorem loadStatus_sp : (loadStatus w s).sp = s.sp := rfl
@[simp] theorem loadStatus_pc : (loadStatus w s).pc = s.pc := rfl
@[simp] theorem loadStatus_n : (loadStatus w s).n = w.getLsbD 7 := rfl
@[simp] theorem loadStatus_v : (loadStatus w s).v = w.getLsbD 6 := rfl
@[simp] theorem loadStatus_b : (loadStatus w s).b = w.getLsbD 4 := rfl
@[simp] theorem loadStatus_d : (loadStatus w s).d = w.getLsbD 3 := rfl
@[simp] theorem loadStatus_i : (loadStatus w s).i = w.getLsbD 2 := rfl
@[simp] theorem loadStatus_z : (loadStatus w s).z = w.getLsbD 1 := rfl
@[simp] theorem loadStatus_c : (loadStatus w s).c = w.getLsbD 0 := rfl
@[simp] theorem loadStatus_halted : (loadStatus w s).halted = s.halted := rfl
@[simp] theorem loadStatus_cart : (loadStatus w s).cart = s.cart := rfl
@[simp] theorem loadStatus_ram : (loadStatus w s).ram = s.ram := rfl
@[simp] theorem loadStatus_io : (loadStatus w s).io = s.io := rfl
@[simp] theorem loadStatus_video : (loadStatus w s).video = s.video := rfl
@[simp] theorem loadStatus_launch : (loadStatus w s).launch = s.launch := rfl
@[simp] theorem loadStatus_inputs : (loadStatus w s).inputs = s.inputs := rfl
@[simp] theorem loadStatus_freeCount : (loadStatus w s).freeCount = s.freeCount := rfl

end

section
variable (k : Nat) (s : State)

@[simp] theorem busClock_a : (busClock k s).a = s.a := rfl
@[simp] theorem busClock_x : (busClock k s).x = s.x := rfl
@[simp] theorem busClock_y : (busClock k s).y = s.y := rfl
@[simp] theorem busClock_sp : (busClock k s).sp = s.sp := rfl
@[simp] theorem busClock_pc : (busClock k s).pc = s.pc := rfl
@[simp] theorem busClock_n : (busClock k s).n = s.n := rfl
@[simp] theorem busClock_v : (busClock k s).v = s.v := rfl
@[simp] theorem busClock_b : (busClock k s).b = s.b := rfl
@[simp] theorem busClock_d : (busClock k s).d = s.d := rfl
@[simp] theorem busClock_i : (busClock k s).i = s.i := rfl
@[simp] theorem busClock_z : (busClock k s).z = s.z := rfl
@[simp] theorem busClock_c : (busClock k s).c = s.c := rfl
@[simp] theorem busClock_halted : (busClock k s).halted = s.halted := rfl
@[simp] theorem busClock_cart : (busClock k s).cart = s.cart := rfl
@[simp] theorem busClock_ram : (busClock k s).ram = s.ram := rfl
@[simp] theorem busClock_io : (busClock k s).io = ioClock k s.io := rfl
@[simp] theorem busClock_video : (busClock k s).video = videoClock s.launch.firstVisibleLine k s.video := rfl
@[simp] theorem busClock_launch : (busClock k s).launch = s.launch := rfl
@[simp] theorem busClock_inputs : (busClock k s).inputs = s.inputs := rfl
@[simp] theorem busClock_freeCount : (busClock k s).freeCount = s.freeCount := rfl

end

section
variable (p : Addr) (s : State)

@[simp] theorem busTouch_a : (busTouch p s).a = s.a := by unfold busTouch; split <;> rfl
@[simp] theorem busTouch_x : (busTouch p s).x = s.x := by unfold busTouch; split <;> rfl
@[simp] theorem busTouch_y : (busTouch p s).y = s.y := by unfold busTouch; split <;> rfl
@[simp] theorem busTouch_sp : (busTouch p s).sp = s.sp := by unfold busTouch; split <;> rfl
@[simp] theorem busTouch_pc : (busTouch p s).pc = s.pc := by unfold busTouch; split <;> rfl
@[simp] theorem busTouch_n : (busTouch p s).n = s.n := by unfold busTouch; split <;> rfl
@[simp] theorem busTouch_v : (busTouch p s).v = s.v := by unfold busTouch; split <;> rfl
@[simp] theorem busTouch_b : (busTouch p s).b = s.b := by unfold busTouch; split <;> rfl
@[simp] theorem busTouch_d : (busTouch p s).d = s.d := by unfold busTouch; split <;> rfl
@[simp] theorem busTouch_i : (busTouch p s).i = s.i := by unfold busTouch; split <;> rfl
@[simp] theorem busTouch_z : (busTouch p s).z = s.z := by unfold busTouch; split <;> rfl
@[simp] theorem busTouch_c : (busTouch p s).c = s.c := by unfold busTouch; split <;> rfl
@[simp] theorem busTouch_halted : (busTouch p s).halted = s.halted := by unfold busTouch; split <;> rfl
@[simp] theorem busTouch_ram : (busTouch p s).ram = s.ram := by unfold busTouch; split <;> rfl
@[simp] theorem busTouch_io : (busTouch p s).io = s.io := by unfold busTouch; split <;> rfl
@[simp] theorem busTouch_video : (busTouch p s).video = s.video := by unfold busTouch; split <;> rfl
@[simp] theorem busTouch_launch : (busTouch p s).launch = s.launch := by unfold busTouch; split <;> rfl
@[simp] theorem busTouch_inputs : (busTouch p s).inputs = s.inputs := by unfold busTouch; split <;> rfl
@[simp] theorem busTouch_freeCount : (busTouch p s).freeCount = s.freeCount := by unfold busTouch; split <;> rfl

end

section
variable (p : Addr) (w : Byte) (s : State)

@[simp] theorem busWrite_a : (busWrite p w s).a = s.a := by unfold busWrite; split <;> simp
@[simp] theorem busWrite_x : (busWrite p w s).x = s.x := by unfold busWrite; split <;> simp
@[simp] theorem busWrite_y : (busWrite p w s).y = s.y := by unfold busWrite; split <;> simp
@[simp] theorem busWrite_sp : (busWrite p w s).sp = s.sp := by unfold busWrite; split <;> simp
@[simp] theorem busWrite_pc : (busWrite p w s).pc = s.pc := by unfold busWrite; split <;> simp
@[simp] theorem busWrite_n : (busWrite p w s).n = s.n := by unfold busWrite; split <;> simp
@[simp] theorem busWrite_v : (busWrite p w s).v = s.v := by unfold busWrite; split <;> simp
@[simp] theorem busWrite_b : (busWrite p w s).b = s.b := by unfold busWrite; split <;> simp
@[simp] theorem busWrite_d : (busWrite p w s).d = s.d := by unfold busWrite; split <;> simp
@[simp] theorem busWrite_i : (busWrite p w s).i = s.i := by unfold busWrite; split <;> simp
@[simp] theorem busWrite_z : (busWrite p w s).z = s.z := by unfold busWrite; split <;> simp
@[simp] theorem busWrite_c : (busWrite p w s).c = s.c := by unfold busWrite; split <;> simp
@[simp] theorem busWrite_halted : (busWrite p w s).halted = s.halted := by unfold busWrite; split <;> simp
@[simp] theorem busWrite_launch : (busWrite p w s).launch = s.launch := by unfold busWrite; split <;> simp
@[simp] theorem busWrite_inputs : (busWrite p w s).inputs = s.inputs := by unfold busWrite; split <;> simp
@[simp] theorem busWrite_freeCount : (busWrite p w s).freeCount = s.freeCount := by unfold busWrite; split <;> simp

end

section
variable (w : Byte) (s : State)

@[simp] theorem push_a : (push w s).a = s.a := by simp [push]
@[simp] theorem push_x : (push w s).x = s.x := by simp [push]
@[simp] theorem push_y : (push w s).y = s.y := by simp [push]
@[simp] theorem push_sp : (push w s).sp = s.sp - 1 := by simp [push]
@[simp] theorem push_pc : (push w s).pc = s.pc := by simp [push]
@[simp] theorem push_n : (push w s).n = s.n := by simp [push]
@[simp] theorem push_v : (push w s).v = s.v := by simp [push]
@[simp] theorem push_b : (push w s).b = s.b := by simp [push]
@[simp] theorem push_d : (push w s).d = s.d := by simp [push]
@[simp] theorem push_i : (push w s).i = s.i := by simp [push]
@[simp] theorem push_z : (push w s).z = s.z := by simp [push]
@[simp] theorem push_c : (push w s).c = s.c := by simp [push]
@[simp] theorem push_halted : (push w s).halted = s.halted := by simp [push]
@[simp] theorem push_cart : (push w s).cart = (busWrite (stackAddr s.sp) w s).cart := rfl
@[simp] theorem push_ram : (push w s).ram = (busWrite (stackAddr s.sp) w s).ram := rfl
@[simp] theorem push_io : (push w s).io = (busWrite (stackAddr s.sp) w s).io := rfl
@[simp] theorem push_video : (push w s).video = (busWrite (stackAddr s.sp) w s).video := rfl
@[simp] theorem push_launch : (push w s).launch = s.launch := by simp [push]
@[simp] theorem push_inputs : (push w s).inputs = s.inputs := by simp [push]
@[simp] theorem push_freeCount : (push w s).freeCount = s.freeCount := by simp [push]

end

section
variable (s : State)

@[simp] theorem pull_a : ((pull s).2).a = s.a := by simp [pull, busRead]
@[simp] theorem pull_x : ((pull s).2).x = s.x := by simp [pull, busRead]
@[simp] theorem pull_y : ((pull s).2).y = s.y := by simp [pull, busRead]
@[simp] theorem pull_sp : ((pull s).2).sp = s.sp + 1 := by simp [pull, busRead]
@[simp] theorem pull_pc : ((pull s).2).pc = s.pc := by simp [pull, busRead]
@[simp] theorem pull_n : ((pull s).2).n = s.n := by simp [pull, busRead]
@[simp] theorem pull_v : ((pull s).2).v = s.v := by simp [pull, busRead]
@[simp] theorem pull_b : ((pull s).2).b = s.b := by simp [pull, busRead]
@[simp] theorem pull_d : ((pull s).2).d = s.d := by simp [pull, busRead]
@[simp] theorem pull_i : ((pull s).2).i = s.i := by simp [pull, busRead]
@[simp] theorem pull_z : ((pull s).2).z = s.z := by simp [pull, busRead]
@[simp] theorem pull_c : ((pull s).2).c = s.c := by simp [pull, busRead]
@[simp] theorem pull_halted : ((pull s).2).halted = s.halted := by simp [pull, busRead]
@[simp] theorem pull_ram : ((pull s).2).ram = s.ram := by simp [pull, busRead]
@[simp] theorem pull_io : ((pull s).2).io = s.io := by simp [pull, busRead]
@[simp] theorem pull_video : ((pull s).2).video = s.video := by simp [pull, busRead]
@[simp] theorem pull_launch : ((pull s).2).launch = s.launch := by simp [pull, busRead]
@[simp] theorem pull_inputs : ((pull s).2).inputs = s.inputs := by simp [pull, busRead]
@[simp] theorem pull_freeCount : ((pull s).2).freeCount = s.freeCount := by simp [pull, busRead]

end

section
variable (w : Addr) (s : State)

@[simp] theorem pushAddr_a : (pushAddr w s).a = s.a := by simp [pushAddr]
@[simp] theorem pushAddr_x : (pushAddr w s).x = s.x := by simp [pushAddr]
@[simp] theorem pushAddr_y : (pushAddr w s).y = s.y := by simp [pushAddr]
@[simp] theorem pushAddr_sp : (pushAddr w s).sp = s.sp - 2 := by simp only [pushAddr, push_sp]; bv_omega
@[simp] theorem pushAddr_pc : (pushAddr w s).pc = s.pc := by simp [pushAddr]
@[simp] theorem pushAddr_n : (pushAddr w s).n = s.n := by simp [pushAddr]
@[simp] theorem pushAddr_v : (pushAddr w s).v = s.v := by simp [pushAddr]
@[simp] theorem pushAddr_b : (pushAddr w s).b = s.b := by simp [pushAddr]
@[simp] theorem pushAddr_d : (pushAddr w s).d = s.d := by simp [pushAddr]
@[simp] theorem pushAddr_i : (pushAddr w s).i = s.i := by simp [pushAddr]
@[simp] theorem pushAddr_z : (pushAddr w s).z = s.z := by simp [pushAddr]
@[simp] theorem pushAddr_c : (pushAddr w s).c = s.c := by simp [pushAddr]
@[simp] theorem pushAddr_halted : (pushAddr w s).halted = s.halted := by simp [pushAddr]
@[simp] theorem pushAddr_launch : (pushAddr w s).launch = s.launch := by simp [pushAddr]
@[simp] theorem pushAddr_inputs : (pushAddr w s).inputs = s.inputs := by simp [pushAddr]
@[simp] theorem pushAddr_freeCount : (pushAddr w s).freeCount = s.freeCount := by simp [pushAddr]

end

section
variable (s : State)

@[simp] theorem pullAddr_a : ((pullAddr s).2).a = s.a := by simp [pullAddr]
@[simp] theorem pullAddr_x : ((pullAddr s).2).x = s.x := by simp [pullAddr]
@[simp] theorem pullAddr_y : ((pullAddr s).2).y = s.y := by simp [pullAddr]
@[simp] theorem pullAddr_sp : ((pullAddr s).2).sp = s.sp + 2 := by simp [pullAddr, BitVec.add_assoc]
@[simp] theorem pullAddr_pc : ((pullAddr s).2).pc = s.pc := by simp [pullAddr]
@[simp] theorem pullAddr_n : ((pullAddr s).2).n = s.n := by simp [pullAddr]
@[simp] theorem pullAddr_v : ((pullAddr s).2).v = s.v := by simp [pullAddr]
@[simp] theorem pullAddr_b : ((pullAddr s).2).b = s.b := by simp [pullAddr]
@[simp] theorem pullAddr_d : ((pullAddr s).2).d = s.d := by simp [pullAddr]
@[simp] theorem pullAddr_i : ((pullAddr s).2).i = s.i := by simp [pullAddr]
@[simp] theorem pullAddr_z : ((pullAddr s).2).z = s.z := by simp [pullAddr]
@[simp] theorem pullAddr_c : ((pullAddr s).2).c = s.c := by simp [pullAddr]
@[simp] theorem pullAddr_halted : ((pullAddr s).2).halted = s.halted := by simp [pullAddr]
@[simp] theorem pullAddr_ram : ((pullAddr s).2).ram = s.ram := by simp [pullAddr]
@[simp] theorem pullAddr_io : ((pullAddr s).2).io = s.io := by simp [pullAddr]
@[simp] theorem pullAddr_video : ((pullAddr s).2).video = s.video := by simp [pullAddr]
@[simp] theorem pullAddr_launch : ((pullAddr s).2).launch = s.launch := by simp [pullAddr]
@[simp] theorem pullAddr_inputs : ((pullAddr s).2).inputs = s.inputs := by simp [pullAddr]
@[simp] theorem pullAddr_freeCount : ((pullAddr s).2).freeCount = s.freeCount := by simp [pullAddr]

end

section
variable (p : Addr) (s : State)

@[simp] theorem busRead16_a : ((busRead16 p s).2).a = s.a := by simp [busRead16, busRead]
@[simp] theorem busRead16_x : ((busRead16 p s).2).x = s.x := by simp [busRead16, busRead]
@[simp] theorem busRead16_y : ((busRead16 p s).2).y = s.y := by simp [busRead16, busRead]
@[simp] theorem busRead16_sp : ((busRead16 p s).2).sp = s.sp := by simp [busRead16, busRead]
@[simp] theorem busRead16_pc : ((busRead16 p s).2).pc = s.pc := by simp [busRead16, busRead]
@[simp] theorem busRead16_n : ((busRead16 p s).2).n = s.n := by simp [busRead16, busRead]
@[simp] theorem busRead16_v : ((busRead16 p s).2).v = s.v := by simp [busRead16, busRead]
@[simp] theorem busRead16_b : ((busRead16 p s).2).b = s.b := by simp [busRead16, busRead]
@[simp] theorem busRead16_d : ((busRead16 p s).2).d = s.d := by simp [busRead16, busRead]
@[simp] theorem busRead16_i : ((busRead16 p s).2).i = s.i := by simp [busRead16, busRead]
@[simp] theorem busRead16_z : ((busRead16 p s).2).z = s.z := by simp [busRead16, busRead]
@[simp] theorem busRead16_c : ((busRead16 p s).2).c = s.c := by simp [busRead16, busRead]
@[simp] theorem busRead16_halted : ((busRead16 p s).2).halted = s.halted := by simp [busRead16, busRead]
@[simp] theorem busRead16_ram : ((busRead16 p s).2).ram = s.ram := by simp [busRead16, busRead]
@[simp] theorem busRead16_io : ((busRead16 p s).2).io = s.io := by simp [busRead16, busRead]
@[simp] theorem busRead16_video : ((busRead16 p s).2).video = s.video := by simp [busRead16, busRead]
@[simp] theorem busRead16_launch : ((busRead16 p s).2).launch = s.launch := by simp [busRead16, busRead]
@[simp] theorem busRead16_inputs : ((busRead16 p s).2).inputs = s.inputs := by simp [busRead16, busRead]
@[simp] theorem busRead16_freeCount : ((busRead16 p s).2).freeCount = s.freeCount := by simp [busRead16, busRead]

end

section
variable (o : Operand) (s : State)

@[simp] theorem readOperand_a : ((readOperand o s).2).a = s.a := by cases o <;> simp [readOperand, busRead]
@[simp] theorem readOperand_x : ((readOperand o s).2).x = s.x := by cases o <;> simp [readOperand, busRead]
@[simp] theorem readOperand_y : ((readOperand o s).2).y = s.y := by cases o <;> simp [readOperand, busRead]
@[simp] theorem readOperand_sp : ((readOperand o s).2).sp = s.sp := by cases o <;> simp [readOperand, busRead]
@[simp] theorem readOperand_pc : ((readOperand o s).2).pc = s.pc := by cases o <;> simp [readOperand, busRead]
@[simp] theorem readOperand_n : ((readOperand o s).2).n = s.n := by cases o <;> simp [readOperand, busRead]
@[simp] theorem readOperand_v : ((readOperand o s).2).v = s.v := by cases o <;> simp [readOperand, busRead]
@[simp] theorem readOperand_b : ((readOperand o s).2).b = s.b := by cases o <;> simp [readOperand, busRead]
@[simp] theorem readOperand_d : ((readOperand o s).2).d = s.d := by cases o <;> simp [readOperand, busRead]
@[simp] theorem readOperand_i : ((readOperand o s).2).i = s.i := by cases o <;> simp [readOperand, busRead]
@[simp] theorem readOperand_z : ((readOperand o s).2).z = s.z := by cases o <;> simp [readOperand, busRead]
@[simp] theorem readOperand_c : ((readOperand o s).2).c = s.c := by cases o <;> simp [readOperand, busRead]
@[simp] theorem readOperand_halted : ((readOperand o s).2).halted = s.halted := by cases o <;> simp [readOperand, busRead]
@[simp] theorem readOperand_ram : ((readOperand o s).2).ram = s.ram := by cases o <;> simp [readOperand, busRead]
@[simp] theorem readOperand_io : ((readOperand o s).2).io = s.io := by cases o <;> simp [readOperand, busRead]
@[simp] theorem readOperand_video : ((readOperand o s).2).video = s.video := by cases o <;> simp [readOperand, busRead]
@[simp] theorem readOperand_launch : ((readOperand o s).2).launch = s.launch := by cases o <;> simp [readOperand, busRead]
@[simp] theorem readOperand_inputs : ((readOperand o s).2).inputs = s.inputs := by cases o <;> simp [readOperand, busRead]
@[simp] theorem readOperand_freeCount : ((readOperand o s).2).freeCount = s.freeCount := by cases o <;> simp [readOperand, busRead]

end

section
variable (s : State)

@[simp] theorem fetch_a : ((fetch s).2).a = s.a := by simp [fetch, busRead]
@[simp] theorem fetch_x : ((fetch s).2).x = s.x := by simp [fetch, busRead]
@[simp] theorem fetch_y : ((fetch s).2).y = s.y := by simp [fetch, busRead]
@[simp] theorem fetch_sp : ((fetch s).2).sp = s.sp := by simp [fetch, busRead]
@[simp] theorem fetch_pc : ((fetch s).2).pc = s.pc + 1 := rfl
@[simp] theorem fetch_n : ((fetch s).2).n = s.n := by simp [fetch, busRead]
@[simp] theorem fetch_v : ((fetch s).2).v = s.v := by simp [fetch, busRead]
@[simp] theorem fetch_b : ((fetch s).2).b = s.b := by simp [fetch, busRead]
@[simp] theorem fetch_d : ((fetch s).2).d = s.d := by simp [fetch, busRead]
@[simp] theorem fetch_i : ((fetch s).2).i = s.i := by simp [fetch, busRead]
@[simp] theorem fetch_z : ((fetch s).2).z = s.z := by simp [fetch, busRead]
@[simp] theorem fetch_c : ((fetch s).2).c = s.c := by simp [fetch, busRead]
@[simp] theorem fetch_halted : ((fetch s).2).halted = s.halted := by simp [fetch, busRead]
@[simp] theorem fetch_ram : ((fetch s).2).ram = s.ram := by simp [fetch, busRead]
@[simp] theorem fetch_io : ((fetch s).2).io = s.io := by simp [fetch, busRead]
@[simp] theorem fetch_video : ((fetch s).2).video = s.video := by simp [fetch, busRead]
@[simp] theorem fetch_launch : ((fetch s).2).launch = s.launch := by simp [fetch, busRead]
@[simp] theorem fetch_inputs : ((fetch s).2).inputs = s.inputs := by simp [fetch, busRead]
@[simp] theorem fetch_freeCount : ((fetch s).2).freeCount = s.freeCount := by simp [fetch, busRead]

end

section
variable (s : State)

@[simp] theorem fetchInstr_a : ((fetchInstr s).2).a = s.a := by
  simp only [fetchInstr, fetchBytes]; split <;> simp
@[simp] theorem fetchInstr_x : ((fetchInstr s).2).x = s.x := by
  simp only [fetchInstr, fetchBytes]; split <;> simp
@[simp] theorem fetchInstr_y : ((fetchInstr s).2).y = s.y := by
  simp only [fetchInstr, fetchBytes]; split <;> simp
@[simp] theorem fetchInstr_sp : ((fetchInstr s).2).sp = s.sp := by
  simp only [fetchInstr, fetchBytes]; split <;> simp
@[simp] theorem fetchInstr_n : ((fetchInstr s).2).n = s.n := by
  simp only [fetchInstr, fetchBytes]; split <;> simp
@[simp] theorem fetchInstr_v : ((fetchInstr s).2).v = s.v := by
  simp only [fetchInstr, fetchBytes]; split <;> simp
@[simp] theorem fetchInstr_b : ((fetchInstr s).2).b = s.b := by
  simp only [fetchInstr, fetchBytes]; split <;> simp
@[simp] theorem fetchInstr_d : ((fetchInstr s).2).d = s.d := by
  simp only [fetchInstr, fetchBytes]; split <;> simp
@[simp] theorem fetchInstr_i : ((fetchInstr s).2).i = s.i := by
  simp only [fetchInstr, fetchBytes]; split <;> simp
@[simp] theorem fetchInstr_z : ((fetchInstr s).2).z = s.z := by
  simp only [fetchInstr, fetchBytes]; split <;> simp
@[simp] theorem fetchInstr_c : ((fetchInstr s).2).c = s.c := by
  simp only [fetchInstr, fetchBytes]; split <;> simp
@[simp] theorem fetchInstr_halted : ((fetchInstr s).2).halted = s.halted := by
  simp only [fetchInstr, fetchBytes]; split <;> simp
@[simp] theorem fetchInstr_ram : ((fetchInstr s).2).ram = s.ram := by
  simp only [fetchInstr, fetchBytes]; split <;> simp
@[simp] theorem fetchInstr_io : ((fetchInstr s).2).io = s.io := by
  simp only [fetchInstr, fetchBytes]; split <;> simp
@[simp] theorem fetchInstr_video : ((fetchInstr s).2).video = s.video := by
  simp only [fetchInstr, fetchBytes]; split <;> simp
@[simp] theorem fetchInstr_launch : ((fetchInstr s).2).launch = s.launch := by
  simp only [fetchInstr, fetchBytes]; split <;> simp
@[simp] theorem fetchInstr_inputs : ((fetchInstr s).2).inputs = s.inputs := by
  simp only [fetchInstr, fetchBytes]; split <;> simp
@[simp] theorem fetchInstr_freeCount : ((fetchInstr s).2).freeCount = s.freeCount := by
  simp only [fetchInstr, fetchBytes]; split <;> simp

end

end Sys2Proof.Machine
end

