-- ==== Sys2Proof/Laws/Memory.lean ====
section
/-! SUPPORT. The byte store: read after write, the canonical form kept by every operation, and one value per player and
per object. -/

namespace Sys2Proof.Machine

@[simp] theorem Memory.read_nil (k : Nat) : Memory.read [] k = Memory.unlisted := rfl

@[simp] theorem Memory.read_cons (j k : Nat) (w : Byte) (m : Memory) :
    Memory.read ((j, w) :: m) k = if k = j then w else Memory.read m k := rfl

/-- A canonical list whose keys start at `lo` reads as unlisted below `lo`. -/
theorem Memory.read_of_lt {lo k : Nat} {m : Memory} (h : Memory.wfFrom lo m = true) (hk : k < lo) :
    Memory.read m k = Memory.unlisted := by
  induction m generalizing lo with
  | nil => rfl
  | cons e m ih =>
    obtain ⟨j, w⟩ := e
    simp only [wfFrom, Bool.and_eq_true, decide_eq_true_eq] at h
    obtain ⟨⟨hj, -⟩, ht⟩ := h
    rw [read_cons, if_neg (by omega)]
    exact ih ht (by omega)

theorem Memory.wfFrom_mono {lo lo' : Nat} {m : Memory} (h : Memory.wfFrom lo m = true) (hl : lo' ≤ lo) :
    Memory.wfFrom lo' m = true := by
  cases m with
  | nil => rfl
  | cons e m =>
    obtain ⟨j, w⟩ := e
    simp only [wfFrom, Bool.and_eq_true, decide_eq_true_eq] at h ⊢
    exact ⟨⟨by omega, h.1.2⟩, h.2⟩

/-- Writing keeps the canonical form of a list whose keys start at `lo`, for a key at or above `lo`. -/
theorem Memory.wfFrom_write {lo : Nat} {m : Memory} (h : Memory.wfFrom lo m = true) {k : Nat} (hk : lo ≤ k) (w : Byte) :
    Memory.wfFrom lo (m.write k w) = true := by
  induction m generalizing lo with
  | nil => by_cases hw : w = unlisted <;> simp [write, wfFrom, hw, hk]
  | cons e m ih =>
    obtain ⟨j, u⟩ := e
    simp only [wfFrom, Bool.and_eq_true, decide_eq_true_eq] at h
    obtain ⟨⟨hj, hu⟩, ht⟩ := h
    simp only [write]
    split
    · split
      · simp [wfFrom, hj, hu, ht]
      · rename_i hkj hw
        simp [wfFrom, hk, hw, hu, ht, Nat.succ_le_of_lt hkj]
    · split
      · rename_i hkj hjk
        split
        · exact wfFrom_mono ht (by omega)
        · rename_i hw
          simp [wfFrom, hw, hjk, ht, hj]
      · simp only [wfFrom, Bool.and_eq_true, decide_eq_true_eq]
        exact ⟨⟨hj, hu⟩, ih ht (by omega)⟩

/-- Every write keeps the canonical form. -/
theorem Memory.wf_write {m : Memory} (h : m.wf = true) (k : Nat) (w : Byte) : (m.write k w).wf = true :=
  wfFrom_write h (Nat.zero_le k) w

/-- A write below a bound keeps the keys below it. -/
theorem Memory.below_write {m : Memory} {n : Nat} (h : m.below n = true) {k : Nat} (hk : k < n) (w : Byte) :
    (m.write k w).below n = true := by
  induction m with
  | nil => by_cases hw : w = unlisted <;> simp [write, below, hw, hk]
  | cons e m ih =>
    obtain ⟨j, u⟩ := e
    simp only [below, List.all_cons, Bool.and_eq_true, decide_eq_true_eq] at h ih ⊢
    simp only [write]
    split
    · split <;> simp [h.1, h.2, hk]
    · split
      · split <;> simp [h.2, hk]
      · simp [h.1, ih h.2]

/-- Read after write in a canonical store. -/
theorem Memory.read_write {m : Memory} (h : m.wf = true) (k j : Nat) (w : Byte) :
    (m.write k w).read j = if j = k then w else m.read j := by
  suffices H : ∀ lo, Memory.wfFrom lo m = true → (m.write k w).read j = if j = k then w else m.read j from H 0 h
  clear h
  intro lo h
  induction m generalizing lo with
  | nil =>
    by_cases hw : w = unlisted
    · by_cases hj : j = k <;> simp [write, hw]
    · simp [write, hw]
  | cons e m ih =>
    obtain ⟨i, u⟩ := e
    simp only [wfFrom, Bool.and_eq_true, decide_eq_true_eq] at h
    obtain ⟨⟨hi, hu⟩, ht⟩ := h
    simp only [write]
    split
    · rename_i hki
      split
      · rename_i hw
        by_cases hj : j = k
        · subst hj
          rw [if_pos rfl, read_cons, if_neg (by omega), read_of_lt ht (by omega), hw]
        · rw [if_neg hj]
      · rw [read_cons]
    · split
      · rename_i hki
        subst hki
        split
        · rename_i hw
          by_cases hj : j = k
          · subst hj
            rw [if_pos rfl, read_of_lt ht (by omega), hw]
          · rw [if_neg hj, read_cons, if_neg hj]
        · by_cases hj : j = k <;> simp [hj]
      · rename_i h1 h2
        rw [read_cons, read_cons, ih _ ht]
        by_cases hj : j = i
        · subst hj; simp [show ¬ j = k by omega]
        · simp [hj]

/-- Canonical stores that read alike are the same list. -/
theorem Memory.ext_read {m m' : Memory} (h : m.wf = true) (h' : m'.wf = true) (hr : ∀ k, m.read k = m'.read k) :
    m = m' := by
  suffices H : ∀ lo lo', Memory.wfFrom lo m = true → Memory.wfFrom lo' m' = true → m = m' from H 0 0 h h'
  clear h h'
  induction m generalizing m' with
  | nil =>
    intro lo lo' _ h'
    cases m' with
    | nil => rfl
    | cons e m' =>
      obtain ⟨j, w⟩ := e
      simp only [wfFrom, Bool.and_eq_true, decide_eq_true_eq] at h'
      have := hr j
      simp only [read_nil, read_cons, if_true] at this
      exact absurd this.symm h'.1.2
  | cons e m ih =>
    intro lo lo' h h'
    obtain ⟨j, w⟩ := e
    simp only [wfFrom, Bool.and_eq_true, decide_eq_true_eq] at h
    cases m' with
    | nil =>
      have := hr j
      simp only [read_nil, read_cons, if_true] at this
      exact absurd this h.1.2
    | cons e' m' =>
      obtain ⟨j', w'⟩ := e'
      simp only [wfFrom, Bool.and_eq_true, decide_eq_true_eq] at h'
      have hjj : j = j' := by
        have h1 := hr j
        have h2 := hr j'
        simp only [read_cons, if_true] at h1 h2
        by_contra hne
        rw [if_neg hne] at h1
        rw [if_neg (fun e => hne e.symm)] at h2
        rcases Nat.lt_or_gt_of_ne hne with hlt | hlt
        · rw [read_of_lt h'.2 (by omega)] at h1; exact h.1.2 h1
        · rw [read_of_lt h.2 (by omega)] at h2; exact h'.1.2 h2.symm
      subst hjj
      have hw := hr j
      simp only [read_cons, if_true] at hw
      subst hw
      congr 1
      refine ih (fun k => ?_) _ _ h.2 h'.2
      by_cases hk : k = j
      · subst hk; rw [read_of_lt h.2 (by omega), read_of_lt h'.2 (by omega)]
      · have := hr k
        simpa [hk] using this

@[simp] theorem PerPlayer.get_set {α : Type} (w : PerPlayer α) (p q : Player) (u : α) :
    (w.set p u).get q = if q = p then u else w.get q := by cases p <;> cases q <;> rfl

@[simp] theorem PerObject.get_set {α : Type} (w : PerObject α) (o q : Obj) (u : α) :
    (w.set o u).get q = if q = o then u else w.get q := by cases o <;> cases q <;> rfl

@[simp] theorem PerPlayer.get_all {α : Type} (u : α) (p : Player) : (PerPlayer.all u).get p = u := by cases p <;> rfl

@[simp] theorem PerObject.get_all {α : Type} (u : α) (o : Obj) : (PerObject.all u).get o = u := by cases o <;> rfl

end Sys2Proof.Machine
end

