-- ==== Sys2Proof/Laws/Video.lean ====
section
/-! SUPPORT. The video chip: what a tick, a run of ticks and a clock call change and leave alone, and that register writes
and clock calls keep the ranges of the chip's counters and positions. -/

namespace Sys2Proof.Machine

section
variable (fvl : Nat) (s : Video)

@[simp] theorem renderPixel_nusiz : (renderPixel fvl s).nusiz = s.nusiz := by unfold renderPixel; split <;> rfl
@[simp] theorem renderPixel_colup : (renderPixel fvl s).colup = s.colup := by unfold renderPixel; split <;> rfl
@[simp] theorem renderPixel_colupf : (renderPixel fvl s).colupf = s.colupf := by unfold renderPixel; split <;> rfl
@[simp] theorem renderPixel_colubk : (renderPixel fvl s).colubk = s.colubk := by unfold renderPixel; split <;> rfl
@[simp] theorem renderPixel_ctrlpf : (renderPixel fvl s).ctrlpf = s.ctrlpf := by unfold renderPixel; split <;> rfl
@[simp] theorem renderPixel_refp : (renderPixel fvl s).refp = s.refp := by unfold renderPixel; split <;> rfl
@[simp] theorem renderPixel_pf0 : (renderPixel fvl s).pf0 = s.pf0 := by unfold renderPixel; split <;> rfl
@[simp] theorem renderPixel_pf1 : (renderPixel fvl s).pf1 = s.pf1 := by unfold renderPixel; split <;> rfl
@[simp] theorem renderPixel_pf2 : (renderPixel fvl s).pf2 = s.pf2 := by unfold renderPixel; split <;> rfl
@[simp] theorem renderPixel_grpWritten : (renderPixel fvl s).grpWritten = s.grpWritten := by unfold renderPixel; split <;> rfl
@[simp] theorem renderPixel_enam : (renderPixel fvl s).enam = s.enam := by unfold renderPixel; split <;> rfl
@[simp] theorem renderPixel_enablWritten : (renderPixel fvl s).enablWritten = s.enablWritten := by unfold renderPixel; split <;> rfl
@[simp] theorem renderPixel_hmPending : (renderPixel fvl s).hmPending = s.hmPending := by unfold renderPixel; split <;> rfl
@[simp] theorem renderPixel_hmApplied : (renderPixel fvl s).hmApplied = s.hmApplied := by unfold renderPixel; split <;> rfl
@[simp] theorem renderPixel_vdelp : (renderPixel fvl s).vdelp = s.vdelp := by unfold renderPixel; split <;> rfl
@[simp] theorem renderPixel_vdelbl : (renderPixel fvl s).vdelbl = s.vdelbl := by unfold renderPixel; split <;> rfl
@[simp] theorem renderPixel_startPos : (renderPixel fvl s).startPos = s.startPos := by unfold renderPixel; split <;> rfl
@[simp] theorem renderPixel_armed : (renderPixel fvl s).armed = s.armed := by unfold renderPixel; split <;> rfl
@[simp] theorem renderPixel_inpt4 : (renderPixel fvl s).inpt4 = s.inpt4 := by unfold renderPixel; split <;> rfl
@[simp] theorem renderPixel_inpt5 : (renderPixel fvl s).inpt5 = s.inpt5 := by unfold renderPixel; split <;> rfl
@[simp] theorem renderPixel_vblankReg : (renderPixel fvl s).vblankReg = s.vblankReg := by unfold renderPixel; split <;> rfl
@[simp] theorem renderPixel_aud : (renderPixel fvl s).aud = s.aud := by unfold renderPixel; split <;> rfl
@[simp] theorem renderPixel_waiting : (renderPixel fvl s).waiting = s.waiting := by unfold renderPixel; split <;> rfl
@[simp] theorem renderPixel_hpos : (renderPixel fvl s).hpos = s.hpos := by unfold renderPixel; split <;> rfl
@[simp] theorem renderPixel_vpos : (renderPixel fvl s).vpos = s.vpos := by unfold renderPixel; split <;> rfl
@[simp] theorem renderPixel_wsyncLatch : (renderPixel fvl s).wsyncLatch = s.wsyncLatch := by unfold renderPixel; split <;> rfl
@[simp] theorem renderPixel_grpActive : (renderPixel fvl s).grpActive = s.grpActive := by unfold renderPixel; split <;> rfl
@[simp] theorem renderPixel_grpPending : (renderPixel fvl s).grpPending = s.grpPending := by unfold renderPixel; split <;> rfl
@[simp] theorem renderPixel_enablActive : (renderPixel fvl s).enablActive = s.enablActive := by unfold renderPixel; split <;> rfl
@[simp] theorem renderPixel_enablPending : (renderPixel fvl s).enablPending = s.enablPending := by unfold renderPixel; split <;> rfl
@[simp] theorem commitPending_nusiz : (commitPending s).nusiz = s.nusiz := by
  simp only [commitPending, commitEnable, commitShape]; split <;> split <;> split <;> rfl
@[simp] theorem commitPending_colup : (commitPending s).colup = s.colup := by
  simp only [commitPending, commitEnable, commitShape]; split <;> split <;> split <;> rfl
@[simp] theorem commitPending_colupf : (commitPending s).colupf = s.colupf := by
  simp only [commitPending, commitEnable, commitShape]; split <;> split <;> split <;> rfl
@[simp] theorem commitPending_colubk : (commitPending s).colubk = s.colubk := by
  simp only [commitPending, commitEnable, commitShape]; split <;> split <;> split <;> rfl
@[simp] theorem commitPending_ctrlpf : (commitPending s).ctrlpf = s.ctrlpf := by
  simp only [commitPending, commitEnable, commitShape]; split <;> split <;> split <;> rfl
@[simp] theorem commitPending_refp : (commitPending s).refp = s.refp := by
  simp only [commitPending, commitEnable, commitShape]; split <;> split <;> split <;> rfl
@[simp] theorem commitPending_pf0 : (commitPending s).pf0 = s.pf0 := by
  simp only [commitPending, commitEnable, commitShape]; split <;> split <;> split <;> rfl
@[simp] theorem commitPending_pf1 : (commitPending s).pf1 = s.pf1 := by
  simp only [commitPending, commitEnable, commitShape]; split <;> split <;> split <;> rfl
@[simp] theorem commitPending_pf2 : (commitPending s).pf2 = s.pf2 := by
  simp only [commitPending, commitEnable, commitShape]; split <;> split <;> split <;> rfl
@[simp] theorem commitPending_grpWritten : (commitPending s).grpWritten = s.grpWritten := by
  simp only [commitPending, commitEnable, commitShape]; split <;> split <;> split <;> rfl
@[simp] theorem commitPending_enam : (commitPending s).enam = s.enam := by
  simp only [commitPending, commitEnable, commitShape]; split <;> split <;> split <;> rfl
@[simp] theorem commitPending_enablWritten : (commitPending s).enablWritten = s.enablWritten := by
  simp only [commitPending, commitEnable, commitShape]; split <;> split <;> split <;> rfl
@[simp] theorem commitPending_hmPending : (commitPending s).hmPending = s.hmPending := by
  simp only [commitPending, commitEnable, commitShape]; split <;> split <;> split <;> rfl
@[simp] theorem commitPending_hmApplied : (commitPending s).hmApplied = s.hmApplied := by
  simp only [commitPending, commitEnable, commitShape]; split <;> split <;> split <;> rfl
@[simp] theorem commitPending_vdelp : (commitPending s).vdelp = s.vdelp := by
  simp only [commitPending, commitEnable, commitShape]; split <;> split <;> split <;> rfl
@[simp] theorem commitPending_vdelbl : (commitPending s).vdelbl = s.vdelbl := by
  simp only [commitPending, commitEnable, commitShape]; split <;> split <;> split <;> rfl
@[simp] theorem commitPending_startPos : (commitPending s).startPos = s.startPos := by
  simp only [commitPending, commitEnable, commitShape]; split <;> split <;> split <;> rfl
@[simp] theorem commitPending_armed : (commitPending s).armed = s.armed := by
  simp only [commitPending, commitEnable, commitShape]; split <;> split <;> split <;> rfl
@[simp] theorem commitPending_inpt4 : (commitPending s).inpt4 = s.inpt4 := by
  simp only [commitPending, commitEnable, commitShape]; split <;> split <;> split <;> rfl
@[simp] theorem commitPending_inpt5 : (commitPending s).inpt5 = s.inpt5 := by
  simp only [commitPending, commitEnable, commitShape]; split <;> split <;> split <;> rfl
@[simp] theorem commitPending_vblankReg : (commitPending s).vblankReg = s.vblankReg := by
  simp only [commitPending, commitEnable, commitShape]; split <;> split <;> split <;> rfl
@[simp] theorem commitPending_aud : (commitPending s).aud = s.aud := by
  simp only [commitPending, commitEnable, commitShape]; split <;> split <;> split <;> rfl
@[simp] theorem commitPending_waiting : (commitPending s).waiting = s.waiting := by
  simp only [commitPending, commitEnable, commitShape]; split <;> split <;> split <;> rfl
@[simp] theorem commitPending_hpos : (commitPending s).hpos = s.hpos := by
  simp only [commitPending, commitEnable, commitShape]; split <;> split <;> split <;> rfl
@[simp] theorem commitPending_vpos : (commitPending s).vpos = s.vpos := by
  simp only [commitPending, commitEnable, commitShape]; split <;> split <;> split <;> rfl
@[simp] theorem commitPending_wsyncLatch : (commitPending s).wsyncLatch = s.wsyncLatch := by
  simp only [commitPending, commitEnable, commitShape]; split <;> split <;> split <;> rfl
@[simp] theorem commitPending_cx : (commitPending s).cx = s.cx := by
  simp only [commitPending, commitEnable, commitShape]; split <;> split <;> split <;> rfl
@[simp] theorem commitPending_events : (commitPending s).events = s.events := by
  simp only [commitPending, commitEnable, commitShape]; split <;> split <;> split <;> rfl
@[simp] theorem tick_nusiz : (tick fvl s).nusiz = s.nusiz := by
  simp only [tick, advance, lineWrap]; split <;> simp
@[simp] theorem tick_colup : (tick fvl s).colup = s.colup := by
  simp only [tick, advance, lineWrap]; split <;> simp
@[simp] theorem tick_colupf : (tick fvl s).colupf = s.colupf := by
  simp only [tick, advance, lineWrap]; split <;> simp
@[simp] theorem tick_colubk : (tick fvl s).colubk = s.colubk := by
  simp only [tick, advance, lineWrap]; split <;> simp
@[simp] theorem tick_ctrlpf : (tick fvl s).ctrlpf = s.ctrlpf := by
  simp only [tick, advance, lineWrap]; split <;> simp
@[simp] theorem tick_refp : (tick fvl s).refp = s.refp := by
  simp only [tick, advance, lineWrap]; split <;> simp
@[simp] theorem tick_pf0 : (tick fvl s).pf0 = s.pf0 := by
  simp only [tick, advance, lineWrap]; split <;> simp
@[simp] theorem tick_pf1 : (tick fvl s).pf1 = s.pf1 := by
  simp only [tick, advance, lineWrap]; split <;> simp
@[simp] theorem tick_pf2 : (tick fvl s).pf2 = s.pf2 := by
  simp only [tick, advance, lineWrap]; split <;> simp
@[simp] theorem tick_grpWritten : (tick fvl s).grpWritten = s.grpWritten := by
  simp only [tick, advance, lineWrap]; split <;> simp
@[simp] theorem tick_enam : (tick fvl s).enam = s.enam := by
  simp only [tick, advance, lineWrap]; split <;> simp
@[simp] theorem tick_enablWritten : (tick fvl s).enablWritten = s.enablWritten := by
  simp only [tick, advance, lineWrap]; split <;> simp
@[simp] theorem tick_hmPending : (tick fvl s).hmPending = s.hmPending := by
  simp only [tick, advance, lineWrap]; split <;> simp
@[simp] theorem tick_hmApplied : (tick fvl s).hmApplied = s.hmApplied := by
  simp only [tick, advance, lineWrap]; split <;> simp
@[simp] theorem tick_vdelp : (tick fvl s).vdelp = s.vdelp := by
  simp only [tick, advance, lineWrap]; split <;> simp
@[simp] theorem tick_vdelbl : (tick fvl s).vdelbl = s.vdelbl := by
  simp only [tick, advance, lineWrap]; split <;> simp
@[simp] theorem tick_startPos : (tick fvl s).startPos = s.startPos := by
  simp only [tick, advance, lineWrap]; split <;> simp
@[simp] theorem tick_armed : (tick fvl s).armed = s.armed := by
  simp only [tick, advance, lineWrap]; split <;> simp
@[simp] theorem tick_inpt4 : (tick fvl s).inpt4 = s.inpt4 := by
  simp only [tick, advance, lineWrap]; split <;> simp
@[simp] theorem tick_inpt5 : (tick fvl s).inpt5 = s.inpt5 := by
  simp only [tick, advance, lineWrap]; split <;> simp
@[simp] theorem tick_vblankReg : (tick fvl s).vblankReg = s.vblankReg := by
  simp only [tick, advance, lineWrap]; split <;> simp
@[simp] theorem tick_aud : (tick fvl s).aud = s.aud := by
  simp only [tick, advance, lineWrap]; split <;> simp
@[simp] theorem tick_waiting : (tick fvl s).waiting = s.waiting := by
  simp only [tick, advance, lineWrap]; split <;> simp

/-- The pixel counter of a tick (R371, R374). -/
theorem tick_hpos : (tick fvl s).hpos = if s.hpos + 1 = 228 then 0 else s.hpos + 1 := by
  simp only [tick, advance, lineWrap, renderPixel_hpos, Config.lineClocks]; split <;> simp

/-- The line counter of a tick (R371, R374). -/
theorem tick_vpos : (tick fvl s).vpos =
    if s.hpos + 1 = 228 then (if s.vpos + 1 = 262 then 0 else s.vpos + 1) else s.vpos := by
  simp only [tick, advance, lineWrap, renderPixel_hpos, Config.lineClocks]; split <;> simp

/-- The WSYNC latch clears at a line wrap and nowhere else (R374). -/
theorem tick_wsyncLatch : (tick fvl s).wsyncLatch = if s.hpos + 1 = 228 then false else s.wsyncLatch := by
  simp only [tick, advance, lineWrap, renderPixel_hpos, Config.lineClocks]; split <;> simp

end

theorem ticks_zero (fvl : Nat) (s : Video) : ticks fvl 0 s = s := rfl

theorem ticks_succ (fvl k : Nat) (s : Video) : ticks fvl (k + 1) s = ticks fvl k (tick fvl s) := rfl

theorem ticks_add (fvl j k : Nat) (s : Video) : ticks fvl (j + k) s = ticks fvl k (ticks fvl j s) := by
  induction j generalizing s with
  | zero => simp [ticks_zero]
  | succ j ih => rw [Nat.succ_add, ticks_succ, ih, ticks_succ]

section
variable (fvl k : Nat) (s : Video)

@[simp] theorem ticks_nusiz : (ticks fvl k s).nusiz = s.nusiz := by
  induction k generalizing s with
  | zero => rfl
  | succ k ih => rw [ticks_succ, ih, tick_nusiz]
@[simp] theorem ticks_colup : (ticks fvl k s).colup = s.colup := by
  induction k generalizing s with
  | zero => rfl
  | succ k ih => rw [ticks_succ, ih, tick_colup]
@[simp] theorem ticks_colupf : (ticks fvl k s).colupf = s.colupf := by
  induction k generalizing s with
  | zero => rfl
  | succ k ih => rw [ticks_succ, ih, tick_colupf]
@[simp] theorem ticks_colubk : (ticks fvl k s).colubk = s.colubk := by
  induction k generalizing s with
  | zero => rfl
  | succ k ih => rw [ticks_succ, ih, tick_colubk]
@[simp] theorem ticks_ctrlpf : (ticks fvl k s).ctrlpf = s.ctrlpf := by
  induction k generalizing s with
  | zero => rfl
  | succ k ih => rw [ticks_succ, ih, tick_ctrlpf]
@[simp] theorem ticks_refp : (ticks fvl k s).refp = s.refp := by
  induction k generalizing s with
  | zero => rfl
  | succ k ih => rw [ticks_succ, ih, tick_refp]
@[simp] theorem ticks_pf0 : (ticks fvl k s).pf0 = s.pf0 := by
  induction k generalizing s with
  | zero => rfl
  | succ k ih => rw [ticks_succ, ih, tick_pf0]
@[simp] theorem ticks_pf1 : (ticks fvl k s).pf1 = s.pf1 := by
  induction k generalizing s with
  | zero => rfl
  | succ k ih => rw [ticks_succ, ih, tick_pf1]
@[simp] theorem ticks_pf2 : (ticks fvl k s).pf2 = s.pf2 := by
  induction k generalizing s with
  | zero => rfl
  | succ k ih => rw [ticks_succ, ih, tick_pf2]
@[simp] theorem ticks_grpWritten : (ticks fvl k s).grpWritten = s.grpWritten := by
  induction k generalizing s with
  | zero => rfl
  | succ k ih => rw [ticks_succ, ih, tick_grpWritten]
@[simp] theorem ticks_enam : (ticks fvl k s).enam = s.enam := by
  induction k generalizing s with
  | zero => rfl
  | succ k ih => rw [ticks_succ, ih, tick_enam]
@[simp] theorem ticks_enablWritten : (ticks fvl k s).enablWritten = s.enablWritten := by
  induction k generalizing s with
  | zero => rfl
  | succ k ih => rw [ticks_succ, ih, tick_enablWritten]
@[simp] theorem ticks_hmPending : (ticks fvl k s).hmPending = s.hmPending := by
  induction k generalizing s with
  | zero => rfl
  | succ k ih => rw [ticks_succ, ih, tick_hmPending]
@[simp] theorem ticks_hmApplied : (ticks fvl k s).hmApplied = s.hmApplied := by
  induction k generalizing s with
  | zero => rfl
  | succ k ih => rw [ticks_succ, ih, tick_hmApplied]
@[simp] theorem ticks_vdelp : (ticks fvl k s).vdelp = s.vdelp := by
  induction k generalizing s with
  | zero => rfl
  | succ k ih => rw [ticks_succ, ih, tick_vdelp]
@[simp] theorem ticks_vdelbl : (ticks fvl k s).vdelbl = s.vdelbl := by
  induction k generalizing s with
  | zero => rfl
  | succ k ih => rw [ticks_succ, ih, tick_vdelbl]
@[simp] theorem ticks_startPos : (ticks fvl k s).startPos = s.startPos := by
  induction k generalizing s with
  | zero => rfl
  | succ k ih => rw [ticks_succ, ih, tick_startPos]
@[simp] theorem ticks_armed : (ticks fvl k s).armed = s.armed := by
  induction k generalizing s with
  | zero => rfl
  | succ k ih => rw [ticks_succ, ih, tick_armed]
@[simp] theorem ticks_inpt4 : (ticks fvl k s).inpt4 = s.inpt4 := by
  induction k generalizing s with
  | zero => rfl
  | succ k ih => rw [ticks_succ, ih, tick_inpt4]
@[simp] theorem ticks_inpt5 : (ticks fvl k s).inpt5 = s.inpt5 := by
  induction k generalizing s with
  | zero => rfl
  | succ k ih => rw [ticks_succ, ih, tick_inpt5]
@[simp] theorem ticks_vblankReg : (ticks fvl k s).vblankReg = s.vblankReg := by
  induction k generalizing s with
  | zero => rfl
  | succ k ih => rw [ticks_succ, ih, tick_vblankReg]
@[simp] theorem ticks_aud : (ticks fvl k s).aud = s.aud := by
  induction k generalizing s with
  | zero => rfl
  | succ k ih => rw [ticks_succ, ih, tick_aud]
@[simp] theorem ticks_waiting : (ticks fvl k s).waiting = s.waiting := by
  induction k generalizing s with
  | zero => rfl
  | succ k ih => rw [ticks_succ, ih, tick_waiting]

end

/-- The pixel counter after `k` ticks (R372). -/
theorem ticks_hpos (fvl k : Nat) {s : Video} (h : s.hpos < 228) : (ticks fvl k s).hpos = (s.hpos + k) % 228 := by
  induction k generalizing s with
  | zero => rw [ticks_zero, Nat.add_zero, Nat.mod_eq_of_lt h]
  | succ k ih =>
    have ht := tick_hpos fvl s
    rw [ticks_succ, ih (by rw [ht]; split <;> omega), ht]
    split <;> omega

theorem ticks_vpos_lt (fvl k : Nat) {s : Video} (h : s.vpos < 262) : (ticks fvl k s).vpos < 262 := by
  induction k generalizing s with
  | zero => exact h
  | succ k ih =>
    rw [ticks_succ]
    refine ih ?_
    rw [tick_vpos]
    split
    · split <;> omega
    · exact h

/-- While the line does not wrap, ticks leave the WSYNC latch and the line counter alone. -/
theorem ticks_before_wrap (fvl k : Nat) {s : Video} (h : s.hpos + k < 228) :
    (ticks fvl k s).hpos = s.hpos + k ∧ (ticks fvl k s).vpos = s.vpos ∧ (ticks fvl k s).wsyncLatch = s.wsyncLatch := by
  induction k generalizing s with
  | zero => exact ⟨rfl, rfl, rfl⟩
  | succ k ih =>
    have h1 := tick_hpos fvl s
    have h2 := tick_vpos fvl s
    have h3 := tick_wsyncLatch fvl s
    rw [if_neg (by omega)] at h1 h2 h3
    obtain ⟨e1, e2, e3⟩ := ih (s := tick fvl s) (by omega)
    rw [ticks_succ, e1, e2, e3, h1, h2, h3]
    exact ⟨by omega, rfl, rfl⟩

section
variable (fvl n : Nat) (s : Video)

@[simp] theorem videoClock_hpos : (videoClock fvl n s).hpos = (ticks fvl (3 * n) s).hpos := rfl
@[simp] theorem videoClock_vpos : (videoClock fvl n s).vpos = (ticks fvl (3 * n) s).vpos := rfl
@[simp] theorem videoClock_wsyncLatch : (videoClock fvl n s).wsyncLatch = (ticks fvl (3 * n) s).wsyncLatch := rfl
@[simp] theorem videoClock_waiting : (videoClock fvl n s).waiting = (ticks fvl (3 * n) s).wsyncLatch := rfl
@[simp] theorem videoClock_armed : (videoClock fvl n s).armed = .all false := rfl
@[simp] theorem videoClock_cx : (videoClock fvl n s).cx = (ticks fvl (3 * n) s).cx := rfl
@[simp] theorem videoClock_events : (videoClock fvl n s).events = (ticks fvl (3 * n) s).events := rfl
@[simp] theorem videoClock_grpActive : (videoClock fvl n s).grpActive = (ticks fvl (3 * n) s).grpActive := rfl
@[simp] theorem videoClock_grpPending : (videoClock fvl n s).grpPending = (ticks fvl (3 * n) s).grpPending := rfl
@[simp] theorem videoClock_enablActive : (videoClock fvl n s).enablActive = (ticks fvl (3 * n) s).enablActive := rfl
@[simp] theorem videoClock_enablPending : (videoClock fvl n s).enablPending = (ticks fvl (3 * n) s).enablPending := rfl

@[simp] theorem videoClock_nusiz : (videoClock fvl n s).nusiz = s.nusiz := ticks_nusiz fvl (3 * n) s
@[simp] theorem videoClock_colup : (videoClock fvl n s).colup = s.colup := ticks_colup fvl (3 * n) s
@[simp] theorem videoClock_colupf : (videoClock fvl n s).colupf = s.colupf := ticks_colupf fvl (3 * n) s
@[simp] theorem videoClock_colubk : (videoClock fvl n s).colubk = s.colubk := ticks_colubk fvl (3 * n) s
@[simp] theorem videoClock_ctrlpf : (videoClock fvl n s).ctrlpf = s.ctrlpf := ticks_ctrlpf fvl (3 * n) s
@[simp] theorem videoClock_refp : (videoClock fvl n s).refp = s.refp := ticks_refp fvl (3 * n) s
@[simp] theorem videoClock_pf0 : (videoClock fvl n s).pf0 = s.pf0 := ticks_pf0 fvl (3 * n) s
@[simp] theorem videoClock_pf1 : (videoClock fvl n s).pf1 = s.pf1 := ticks_pf1 fvl (3 * n) s
@[simp] theorem videoClock_pf2 : (videoClock fvl n s).pf2 = s.pf2 := ticks_pf2 fvl (3 * n) s
@[simp] theorem videoClock_grpWritten : (videoClock fvl n s).grpWritten = s.grpWritten := ticks_grpWritten fvl (3 * n) s
@[simp] theorem videoClock_enam : (videoClock fvl n s).enam = s.enam := ticks_enam fvl (3 * n) s
@[simp] theorem videoClock_enablWritten : (videoClock fvl n s).enablWritten = s.enablWritten := ticks_enablWritten fvl (3 * n) s
@[simp] theorem videoClock_hmPending : (videoClock fvl n s).hmPending = s.hmPending := ticks_hmPending fvl (3 * n) s
@[simp] theorem videoClock_hmApplied : (videoClock fvl n s).hmApplied = s.hmApplied := ticks_hmApplied fvl (3 * n) s
@[simp] theorem videoClock_vdelp : (videoClock fvl n s).vdelp = s.vdelp := ticks_vdelp fvl (3 * n) s
@[simp] theorem videoClock_vdelbl : (videoClock fvl n s).vdelbl = s.vdelbl := ticks_vdelbl fvl (3 * n) s
@[simp] theorem videoClock_inpt4 : (videoClock fvl n s).inpt4 = s.inpt4 := ticks_inpt4 fvl (3 * n) s
@[simp] theorem videoClock_inpt5 : (videoClock fvl n s).inpt5 = s.inpt5 := ticks_inpt5 fvl (3 * n) s
@[simp] theorem videoClock_vblankReg : (videoClock fvl n s).vblankReg = s.vblankReg := ticks_vblankReg fvl (3 * n) s
@[simp] theorem videoClock_aud : (videoClock fvl n s).aud = s.aud := ticks_aud fvl (3 * n) s

/-- The position an object has after a clock call (R389). -/
theorem videoClock_startPos (q : Obj) : (videoClock fvl n s).startPos.get q =
    if s.armed.get q then (ticks fvl (3 * n) s).hpos + lead q else s.startPos.get q := by
  cases q <;> simp [videoClock, commitPositions, committedPos, PerObject.get] <;> rfl

end

/-- `VSYNC` with bit 1 set (R312). -/
theorem writeVsync_eq (w : Byte) (s : Video) : writeVsync w s =
    if w.getLsbD 1 then { s with hpos := 0, vpos := 0, events := .refresh :: s.events } else s := rfl

theorem motionOffset_ok (w : Byte) : MotionOk (motionOffset w) := by
  have h1 := BitVec.toInt_lt (x := w.extractLsb' 4 4)
  have h2 := BitVec.le_toInt (w.extractLsb' 4 4)
  simp only [Nat.reduceSub] at h1 h2
  exact ⟨by unfold motionOffset; omega, by unfold motionOffset; omega⟩

/-- Every register write keeps the ranges (R312 to R336). -/
theorem writeReg_ok (q : WriteReg) (w : Byte) {s : Video} (h : VideoOk s) : VideoOk (writeReg q w s) := by
  have hm := motionOffset_ok w
  have h0 : MotionOk 0 := ⟨by omega, by omega⟩
  cases q with
  | vsync =>
    simp only [writeReg, writeVsync]
    split
    · exact ⟨by simp, by simp, by simp, h.startPos_ok, h.hmPending_ok, h.hmApplied_ok⟩
    · exact h
  | grp p => simp only [writeReg, writeGrp]; split <;> exact ⟨h.1, h.2, h.3, h.4, h.5, h.6⟩
  | enabl => simp only [writeReg, writeEnabl]; split <;> exact ⟨h.1, h.2, h.3, h.4, h.5, h.6⟩
  | hm o =>
    refine ⟨h.1, h.2, h.3, h.4, fun p => ?_, h.6⟩
    simp only [writeReg, PerObject.get_set]
    split
    · exact hm
    · exact h.5 p
  | hmove => exact ⟨h.1, h.2, h.3, h.4, h.5, h.5⟩
  | hmclr => exact ⟨h.1, h.2, h.3, h.4, fun p => by simpa [writeReg] using h0, fun p => by simpa [writeReg] using h0⟩
  | _ => exact ⟨h.1, h.2, h.3, h.4, h.5, h.6⟩

theorem videoWrite_ok (r : BitVec 6) (w : Byte) {s : Video} (h : VideoOk s) : VideoOk (videoWrite r w s) :=
  writeReg_ok _ w h

theorem lead_pos (o : Obj) : 4 ≤ lead o ∧ lead o ≤ 5 := by cases o <;> simp [lead]

/-- A clock call keeps the ranges and leaves no strobe armed and `waiting` equal to the latch (R388 to R390, R392). -/
theorem videoClock_ok (fvl n : Nat) {s : Video} (h : VideoOk s) :
    VideoOk (videoClock fvl n s) ∧ VideoSettled (videoClock fvl n s) := by
  have hh : (ticks fvl (3 * n) s).hpos = (s.hpos + 3 * n) % 228 := ticks_hpos fvl _ h.hpos_lt
  have hm := h.hpos_mod
  refine ⟨⟨?_, ?_, ?_, fun o => ?_, ?_, ?_⟩, ⟨rfl, rfl⟩⟩
  · rw [videoClock_hpos, hh]; omega
  · rw [videoClock_hpos, hh]; omega
  · rw [videoClock_vpos]; exact ticks_vpos_lt fvl _ h.vpos_lt
  · rw [videoClock_startPos]
    split
    · refine Or.inr ⟨?_, ?_, ?_⟩ <;> omega
    · exact h.startPos_ok o
  · simpa using h.hmPending_ok
  · simpa using h.hmApplied_ok

end Sys2Proof.Machine
end

