-- ==== Sys2Proof/Laws/Bus.lean ====
section
/-! SUPPORT. The bus: which target an address has, what a read and a write do for each, and that every shared operation
keeps `StateOk`. -/

namespace Sys2Proof.Machine

theorem busRead_eq (p : Addr) (s : State) : busRead p s = (busValue p s, busTouch p s) := rfl

/-- A bus access of either kind keeps the image and its size: only the bank can change (R102, R103). -/
theorem busTouch_cart (p : Addr) (s : State) : (busTouch p s).cart.image = s.cart.image ∧ (busTouch p s).cart.size = s.cart.size := by
  unfold busTouch
  split
  · simp only [Cart.select]; split <;> exact ⟨rfl, rfl⟩
  · exact ⟨rfl, rfl⟩

/-- An access outside the cartridge window has no side effect (R109). -/
theorem busTouch_of_low {p : Addr} (h : p.getLsbD 12 = false) (s : State) : busTouch p s = s := by
  unfold busTouch target
  rw [h]
  simp only [Bool.false_eq_true, if_false]
  split <;> first | rfl | (rename_i e; split at e <;> first | cases e | (split at e <;> cases e))

/-- No zero-page access has a side effect (R109). -/
theorem zeroPage_touch (z : Byte) (s : State) : busTouch (zeroPage z) s = s :=
  busTouch_of_low (by simp [zeroPage]) s

theorem target_cart {p : Addr} (h : p.getLsbD 12 = true) : target p = .cart (p.extractLsb' 0 12) := by
  unfold target; rw [h]; rfl

theorem target_video {p : Addr} (h : p.getLsbD 12 = false) (h7 : p.getLsbD 7 = false) :
    target p = .video (p.extractLsb' 0 6) := by
  unfold target; rw [h, h7]; rfl

theorem target_ram {p : Addr} (h : p.getLsbD 12 = false) (h7 : p.getLsbD 7 = true) (h9 : p.getLsbD 9 = false) :
    target p = .ram (p.extractLsb' 0 7) := by
  unfold target; rw [h, h7, h9]; rfl

theorem target_io {p : Addr} (h : p.getLsbD 12 = false) (h7 : p.getLsbD 7 = true) (h9 : p.getLsbD 9 = true) :
    target p = .io (p.extractLsb' 0 5) := by
  unfold target; rw [h, h7, h9]; rfl

theorem busWrite_cart_image (p : Addr) (w : Byte) (s : State) :
    (busWrite p w s).cart.image = s.cart.image ∧ (busWrite p w s).cart.size = s.cart.size := by
  unfold busWrite; split
  · exact busTouch_cart p s
  · exact ⟨rfl, rfl⟩
  · exact ⟨rfl, rfl⟩
  · exact ⟨rfl, rfl⟩

theorem cart_ok_select {c : Cart} (h : CartOk c) (off : BitVec 12) : CartOk (c.select off) := by
  unfold Cart.select; split <;> exact h

theorem busTouch_ok (p : Addr) {s : State} (h : StateOk s) : StateOk (busTouch p s) := by
  unfold busTouch; split
  · exact ⟨h.1, cart_ok_select h.2 _, h.3, h.4, h.5⟩
  · exact h

/-- A bus write keeps the ranges of everything it reaches (R83). -/
theorem busWrite_ok (p : Addr) (w : Byte) {s : State} (h : StateOk s) : StateOk (busWrite p w s) := by
  unfold busWrite; split
  · exact busTouch_ok p h
  · exact ⟨h.1, h.2, h.3, videoWrite_ok _ _ h.4, h.5⟩
  · exact ⟨⟨Memory.wf_write h.1.1 _ _, Memory.below_write h.1.2 (BitVec.isLt _) _⟩, h.2, h.3, h.4, h.5⟩
  · exact ⟨h.1, h.2, ioWrite_ok _ _ h.3, h.4, h.5⟩

/-- `StateOk` reads only the chips and the launch parameters. -/
theorem StateOk.of_eq {s t : State} (h : StateOk s) (h1 : t.ram = s.ram) (h2 : t.cart = s.cart) (h3 : t.io = s.io)
    (h4 : t.video = s.video) (h5 : t.launch = s.launch) : StateOk t :=
  ⟨h1 ▸ h.1, h2 ▸ h.2, h3 ▸ h.3, h4 ▸ h.4, h5 ▸ h.5⟩

theorem push_ok (w : Byte) {s : State} (h : StateOk s) : StateOk (push w s) :=
  (busWrite_ok (stackAddr s.sp) w h).of_eq rfl rfl rfl rfl rfl

theorem pushAddr_ok (w : Addr) {s : State} (h : StateOk s) : StateOk (pushAddr w s) := push_ok _ (push_ok _ h)

theorem pull_ok {s : State} (h : StateOk s) : StateOk (pull s).2 :=
  busTouch_ok _ (h.of_eq (t := { s with sp := s.sp + 1 }) rfl rfl rfl rfl rfl)

theorem pullAddr_ok {s : State} (h : StateOk s) : StateOk (pullAddr s).2 := pull_ok (pull_ok h)

theorem busRead16_ok (p : Addr) {s : State} (h : StateOk s) : StateOk (busRead16 p s).2 := busTouch_ok _ (busTouch_ok _ h)

theorem takeBreak_ok (ret : Addr) {s : State} (h : StateOk s) : StateOk (takeBreak ret s) := by
  have h1 : StateOk (pushAddr ret { s with b := true }) := pushAddr_ok ret (h.of_eq rfl rfl rfl rfl rfl)
  exact (busRead16_ok _ ((push_ok (statusForPush (pushAddr ret { s with b := true })) h1).of_eq
    (t := { push (statusForPush (pushAddr ret { s with b := true })) (pushAddr ret { s with b := true }) with i := true })
    rfl rfl rfl rfl rfl)).of_eq rfl rfl rfl rfl rfl

theorem returnFromBreak_ok {s : State} (h : StateOk s) : StateOk (returnFromBreak s) :=
  (pullAddr_ok ((pull_ok h).of_eq (t := loadStatus (pull s).1 (pull s).2) rfl rfl rfl rfl rfl)).of_eq rfl rfl rfl rfl rfl

theorem readOperand_ok (o : Operand) {s : State} (h : StateOk s) : StateOk (readOperand o s).2 := by
  cases o <;> first | exact h | exact busTouch_ok _ h

/-- The clock call ends every instruction in a state that meets the whole invariant (R85). -/
theorem busClock_inv (n : Nat) {s : State} (h : StateOk s) : Inv (busClock n s) :=
  ⟨⟨h.1, h.2, ioClock_ok n s.io, (videoClock_ok _ n h.4).1, h.5⟩, (videoClock_ok _ n h.4).2⟩

/-- An instruction that retires from a state in range ends in the invariant. -/
theorem retire_inv {n : Nat} {s t : State} (h : StateOk s) (e : retire n s = .next t) : Inv t := by
  cases e; exact busClock_inv n h

theorem fetch_ok {s : State} (h : StateOk s) : StateOk (fetch s).2 := (busTouch_ok s.pc h).of_eq rfl rfl rfl rfl rfl

theorem fetchInstr_ok {s : State} (h : StateOk s) : StateOk (fetchInstr s).2 := by
  simp only [fetchInstr, fetchBytes]
  split
  · exact fetch_ok h
  · exact fetch_ok (fetch_ok h)
  · exact fetch_ok (fetch_ok (fetch_ok h))

end Sys2Proof.Machine
end

