-- ==== Sys2Proof/Laws/Exec.lean ====
section
/-! SUPPORT. `exec` by the shape of the instruction: one equation for every read-type instruction, one for the stores, one for the
read-modify-write instructions. A proof about one of them splits on the mnemonic, not on the 151 rows. -/

namespace Sys2Proof.Machine

/-- What a read-type instruction does with the byte it reads. -/
def readEffect : Mnemonic → Option (Byte → State → State)
  | .lda => some setA
  | .ldx => some setX
  | .ldy => some setY
  | .adc => some adc
  | .sbc => some sbc
  | .cmp => some compareA
  | .cpx => some compareX
  | .cpy => some compareY
  | .and => some andA
  | .ora => some oraA
  | .eor => some eorA
  | .bit => some bitTest
  | _ => none

/-- The register a store stores. -/
def storeValue : Mnemonic → Option (State → Byte)
  | .sta => some (·.a)
  | .stx => some (·.x)
  | .sty => some (·.y)
  | _ => none

/-- The result and flags of a read-modify-write instruction. -/
def modifyEffect : Mnemonic → Option (Byte → State → Byte × State)
  | .inc => some incByte
  | .dec => some decByte
  | .asl => some asl
  | .lsr => some lsr
  | .rol => some rol
  | .ror => some ror
  | _ => none

/-- Every read-type instruction: one read, its effect, the clock (R176, R177). -/
theorem exec_read {i : Instr} {o : Operand} {e : Byte → State → State} (he : readEffect i.mnemonic = some e)
    (ho : i.operand = some o) (s : State) :
    exec i s = .next (busClock (readCount o s) (e (readOperand o s).1 (readOperand o s).2)) := by
  cases i <;> first | (cases he; done) | (cases ho; cases he; rfl)

/-- Every store: one write, the clock (R204 to R206). -/
theorem exec_store {i : Instr} {o : Operand} {v : State → Byte} (hv : storeValue i.mnemonic = some v)
    (ho : i.operand = some o) (s : State) :
    exec i s = .next (busClock (storeCycles o) (busWrite (effectiveAddress o s) (v s) s)) := by
  cases i <;> first | (cases hv; done) | (cases ho; cases hv; rfl)

/-- Every read-modify-write instruction on memory: one read, one write to the same address, the clock (R177). -/
theorem exec_modify {i : Instr} {o : Operand} {e : Byte → State → Byte × State} (he : modifyEffect i.mnemonic = some e)
    (ho : i.operand = some o) (s : State) :
    exec i s = .next (busClock (modifyCycles o)
      (busWrite (effectiveAddress o s) (e (readOperand o s).1 (readOperand o s).2).1
        (e (readOperand o s).1 (readOperand o s).2).2)) := by
  cases i <;> first | (cases ho; done) | (cases he; done) | (cases ho; cases he; rfl)

/-- An instruction with an operand is of one of the three kinds. -/
theorem operand_kind {i : Instr} {o : Operand} (ho : i.operand = some o) :
    (∃ e, readEffect i.mnemonic = some e) ∨ (∃ v, storeValue i.mnemonic = some v) ∨ (∃ e, modifyEffect i.mnemonic = some e) := by
  cases i <;> first | (cases ho; done) | exact .inl ⟨_, rfl⟩ | exact .inr (.inl ⟨_, rfl⟩) | exact .inr (.inr ⟨_, rfl⟩)

/-- A read-type instruction has an operand. -/
theorem operand_of_read {i : Instr} {e : Byte → State → State} (he : readEffect i.mnemonic = some e) :
    ∃ o, i.operand = some o := by
  cases i <;> first | (cases he; done) | exact ⟨_, rfl⟩

/-- A store has an operand. -/
theorem operand_of_store {i : Instr} {v : State → Byte} (hv : storeValue i.mnemonic = some v) : ∃ o, i.operand = some o := by
  cases i <;> first | (cases hv; done) | exact ⟨_, rfl⟩

/-- What a read leaves behind: the state it found but for the cartridge store (R109). -/
theorem readOperand_state (o : Operand) (s : State) : (readOperand o s).2 = { s with cart := (readOperand o s).2.cart } := by
  cases o <;> first | rfl | (simp only [readOperand, busRead, busTouch]; split <;> rfl)

/-- A stack address lies in page 1, below the cartridge window (R23). -/
theorem stackAddr_low (sp : Byte) : (stackAddr sp).getLsbD 12 = false := by
  revert sp; decide +kernel

/-- What a bus access of either kind does to the cartridge store. -/
def touchCart (p : Addr) (c : Cart) : Cart :=
  match target p with
  | .cart off => c.select off
  | _ => c

/-- What a bus write does to the RAM. -/
def writeRam (p : Addr) (w : Byte) (m : Memory) : Memory :=
  match target p with
  | .ram k => m.write k.toNat w
  | _ => m

/-- What a bus write does to the I/O chip. -/
def writeIo (p : Addr) (w : Byte) (t : Io) : Io :=
  match target p with
  | .io r => ioWrite r w t
  | _ => t

/-- What a bus write does to the video chip. -/
def writeVideo (p : Addr) (w : Byte) (u : Video) : Video :=
  match target p with
  | .video r => videoWrite r w u
  | _ => u

section
variable (p : Addr) (w : Byte) (s : State)

@[simp] theorem busTouch_cart_eq : (busTouch p s).cart = touchCart p s.cart := by
  unfold busTouch touchCart; cases target p <;> rfl
@[simp] theorem busWrite_cart : (busWrite p w s).cart = touchCart p s.cart := by
  rw [← busTouch_cart_eq]; unfold busWrite busTouch; cases target p <;> rfl
@[simp] theorem busWrite_ram : (busWrite p w s).ram = writeRam p w s.ram := by
  unfold busWrite busTouch writeRam; cases target p <;> rfl
@[simp] theorem busWrite_io : (busWrite p w s).io = writeIo p w s.io := by
  unfold busWrite busTouch writeIo; cases target p <;> rfl
@[simp] theorem busWrite_video : (busWrite p w s).video = writeVideo p w s.video := by
  unfold busWrite busTouch writeVideo; cases target p <;> rfl

end

@[simp] theorem touchCart_stackAddr (sp : Byte) (c : Cart) : touchCart (stackAddr sp) c = c := by
  have h := stackAddr_low sp
  unfold touchCart target
  rw [h]
  simp only [Bool.false_eq_true, if_false]
  split <;> first | rfl | (rename_i e; split at e <;> first | cases e | (split at e <;> cases e))

/-- A read reads the four chips alone. -/
theorem busValue_congr (p : Addr) {s t : State} (h1 : t.cart = s.cart) (h2 : t.ram = s.ram) (h3 : t.io = s.io)
    (h4 : t.video = s.video) : busValue p t = busValue p s := by simp only [busValue, h1, h2, h3, h4]

theorem stackAddr_touch (sp : Byte) (s : State) : busTouch (stackAddr sp) s = s := busTouch_of_low (stackAddr_low sp) s

/-- The status byte as pushed: bits 5 and 4 read 1 whatever `B` holds (R280). -/
theorem statusForPush_eq (s : State) : statusForPush s =
    BitVec.ofBool s.n ++ BitVec.ofBool s.v ++ 1#1 ++ 1#1 ++
      BitVec.ofBool s.d ++ BitVec.ofBool s.i ++ BitVec.ofBool s.z ++ BitVec.ofBool s.c := by
  simp only [statusForPush, statusWord]
  cases s.n <;> cases s.v <;> cases s.b <;> cases s.d <;> cases s.i <;> cases s.z <;> cases s.c <;> rfl

/-- A read in the cartridge window reads the cartridge store alone (R101). -/
theorem busValue_of_cart {p : Addr} (h : p.getLsbD 12 = true) {s t : State} (e : t.cart = s.cart) :
    busValue p t = busValue p s := by
  simp only [busValue, target_cart h, e]

/-- An access at an address that is no hot spot changes nothing (R109). -/
theorem busTouch_of_cold {p : Addr} {s : State} (h : ∀ off, target p = .cart off → s.cart.hot off = false) :
    busTouch p s = s := by
  unfold busTouch
  split
  · rename_i off e
    simp only [Cart.select, h off e]; rfl
  · rfl

/-- The two bytes of the BRK vector are no hot spots (R96, R103). -/
theorem brkVector_touch (s : State) : busTouch 0xFFFE#16 s = s ∧ busTouch 0xFFFF#16 s = s :=
  ⟨busTouch_of_cold fun off e => by cases e; exact Bool.and_eq_false_iff.mpr (.inr rfl),
    busTouch_of_cold fun off e => by cases e; exact Bool.and_eq_false_iff.mpr (.inr rfl)⟩

/-- A pull: the byte the raised `SP` names, and nothing but `SP` changed (R179). -/
theorem pull_eq (s : State) : pull s = (busValue (stackAddr (s.sp + 1)) s, { s with sp := s.sp + 1 }) := by
  simp only [pull, busRead, stackAddr_touch]; rfl

/-- Two pulls, low byte first (R273, R294). -/
theorem pullAddr_eq (s : State) : pullAddr s =
    (wordOf (busValue (stackAddr (s.sp + 2)) s) (busValue (stackAddr (s.sp + 1)) s), { s with sp := s.sp + 2 }) := by
  simp only [pullAddr, pull_eq, BitVec.add_assoc]; rfl

/-- `Compare` without its 9-bit difference (R225). -/
theorem compare_eq (r m : Byte) (s : State) :
    compare r m s = { s with c := decide (m.toNat ≤ r.toNat), z := r == m, n := (r - m).getLsbD 7 } := by
  have h1 : (binaryDiff r m false).setWidth 8 = r - m := by
    simp [binaryDiff, carryIn]; bv_omega
  have h2 : (binaryDiff r m false).getLsbD 8 = !decide (m.toNat ≤ r.toNat) := by
    simp only [binaryDiff, carryIn]
    simp [BitVec.getLsbD, Nat.testBit, Nat.shiftRight_eq_div_pow]
    have := r.isLt; have := m.isLt
    by_cases h : m.toNat ≤ r.toNat <;> simp [h] <;> omega
  have h3 : (r - m == 0) = (r == m) := by rw [Bool.eq_iff_iff]; simp; bv_omega
  simp only [compare, setNZ, h1, h2, h3, Bool.not_not]

end Sys2Proof.Machine
end

