-- ==== Sys2Proof/Laws/Fetch.lean ====
section
/-! SUPPORT. Fetching: what is fetched decodes without a refusal, and how far `PC` moves. -/

namespace Sys2Proof.Machine

theorem opcodeLength_cases (op : Byte) : opcodeLength op = 1 ∨ opcodeLength op = 2 ∨ opcodeLength op = 3 := by
  unfold opcodeLength; split
  · exact .inr (.inr rfl)
  · split
    · exact .inr (.inl rfl)
    · exact .inl rfl

/-- The bytes fetched are one whole instruction: the decoder takes them all and gives the instruction that runs. -/
theorem fetchBytes_decode (s : State) : decode (fetchBytes s).1 = .ok ((fetchInstr s).1, []) := by
  rcases opcodeLength_cases (fetch s).1 with h | h | h <;> simp [fetchInstr, fetchBytes, h, decode, assembleBytes]

/-- There are as many bytes as the opcode says (R130). -/
theorem fetchBytes_length (s : State) : (fetchBytes s).1.length = opcodeLength (busValue s.pc s) := by
  have e : (fetch s).1 = busValue s.pc s := rfl
  rcases opcodeLength_cases (fetch s).1 with h | h | h <;> simp [fetchBytes, h, ← e]

/-- `PC` moves past the bytes fetched (R24, R163). -/
theorem fetchInstr_pc (s : State) : (fetchInstr s).2.pc = s.pc + BitVec.ofNat 16 (opcodeLength (busValue s.pc s)) := by
  have e : (fetch s).1 = busValue s.pc s := rfl
  rcases opcodeLength_cases (fetch s).1 with h | h | h <;>
    simp [fetchInstr, fetchBytes, h, ← e, BitVec.add_assoc]

end Sys2Proof.Machine
end

