-- ==== Sys2Proof/Laws/Host.lean ====
section
/-! SUPPORT. The host's turn: the reset state is a reset of itself, and host calls keep the invariant. -/

namespace Sys2Proof.Machine

/-- State.reset is what the reset sequence leaves (R481): its `PC` is the word at 0xFFFC. -/
theorem reset_isReset : hardReset State.reset = State.reset := by decide +kernel

/-- The reset memory is in canonical form. -/
theorem reset_memory_wf : State.reset.ram.wf = true ∧ State.reset.cart.image.wf = true := by decide

@[simp] theorem hostTurn_nil {s : State} (h : s.inputs = []) : hostTurn s = s := by unfold hostTurn; rw [h]

theorem VideoReset_ok : VideoOk Video.reset :=
  ⟨by decide, by decide, by decide, fun o => .inl (by cases o <;> rfl), fun o => by cases o <;> exact ⟨by decide, by decide⟩,
    fun o => by cases o <;> exact ⟨by decide, by decide⟩⟩

/-- The video chip after reset is in range, whatever events it has emitted (R78). -/
theorem VideoReset_ok_events (es : List Event) : VideoOk { Video.reset with events := es } :=
  have h := VideoReset_ok
  ⟨h.1, h.2, h.3, h.4, h.5, h.6⟩

theorem hardReset_inv {s : State} (h : Inv s) : Inv (hardReset s) := by
  have hr : StateOk (resetFields s) :=
    ⟨h.ok.launch_ok.ram_ok, h.ok.cart_ok, h.ok.launch_ok.timer_ok, VideoReset_ok_events _, h.ok.launch_ok⟩
  refine ⟨(busRead16_ok _ hr).of_eq rfl rfl rfl rfl rfl, ?_⟩
  have e : (hardReset s).video = { Video.reset with events := s.video.events } := by simp [hardReset, resetFields]
  rw [e]; exact ⟨rfl, rfl⟩

theorem hostCall_inv (k : HostCall) {s : State} (h : Inv s) : Inv (hostCall k s) := by
  obtain ⟨⟨h1, h2, h3, h4, h5⟩, h6⟩ := h
  cases k with
  | setFire p pressed =>
    refine ⟨⟨h1, h2, h3, ?_, h5⟩, ?_⟩ <;> cases p
    · exact ⟨h4.1, h4.2, h4.3, h4.4, h4.5, h4.6⟩
    · exact ⟨h4.1, h4.2, h4.3, h4.4, h4.5, h4.6⟩
    · exact ⟨h6.1, h6.2⟩
    · exact ⟨h6.1, h6.2⟩
  | setLine reg bit level => exact ⟨⟨h1, h2, setLine_ok reg _ level h3, h4, h5⟩, h6⟩
  | setJoystick p dir pressed => exact ⟨⟨h1, h2, setLine_ok _ _ _ h3, h4, h5⟩, h6⟩
  | setSwitch which level => exact ⟨⟨h1, h2, setLine_ok _ _ _ h3, h4, h5⟩, h6⟩
  | reset => exact hardReset_inv ⟨⟨h1, h2, h3, h4, h5⟩, h6⟩

theorem hostCalls_inv (ks : List HostCall) {s : State} (h : Inv s) : Inv (hostCalls ks s) := by
  induction ks generalizing s with
  | nil => exact h
  | cons k ks ih => exact ih (hostCall_inv k h)

/-- The host's turn keeps the invariant (R7). -/
theorem hostTurn_inv {s : State} (h : Inv s) : Inv (hostTurn s) := by
  unfold hostTurn
  split
  · exact h
  · exact hostCalls_inv _ ⟨h.ok.of_eq rfl rfl rfl rfl rfl, h.settled⟩

end Sys2Proof.Machine
end

