-- ==== Sys2Proof/Laws/PerInstr.lean ====
section
/-! SUPPORT. Per-instruction laws. EncodedLength: the encoder writes as many bytes as the opcode byte alone says (R130). -/

namespace Sys2Proof.Laws.EncodedLength

def Statement (i : Instr) : Prop := i.wf = true → (encode i).length = opcodeLength (opcodeOf i)

theorem ldaImm (v : Byte) : Statement (.ldaImm v) := fun _ => rfl
theorem ldaZp (b : Byte) : Statement (.ldaZp b) := fun _ => rfl
theorem ldaZpX (b : Byte) : Statement (.ldaZpX b) := fun _ => rfl
theorem ldaAbs (a : Addr) : Statement (.ldaAbs a) := fun _ => rfl
theorem ldaAbsX (a : Addr) : Statement (.ldaAbsX a) := fun _ => rfl
theorem ldaAbsY (a : Addr) : Statement (.ldaAbsY a) := fun _ => rfl
theorem ldaIndX (b : Byte) : Statement (.ldaIndX b) := fun _ => rfl
theorem ldaIndY (b : Byte) : Statement (.ldaIndY b) := fun _ => rfl
theorem ldxImm (v : Byte) : Statement (.ldxImm v) := fun _ => rfl
theorem ldxZp (b : Byte) : Statement (.ldxZp b) := fun _ => rfl
theorem ldxZpY (b : Byte) : Statement (.ldxZpY b) := fun _ => rfl
theorem ldxAbs (a : Addr) : Statement (.ldxAbs a) := fun _ => rfl
theorem ldxAbsY (a : Addr) : Statement (.ldxAbsY a) := fun _ => rfl
theorem ldyImm (v : Byte) : Statement (.ldyImm v) := fun _ => rfl
theorem ldyZp (b : Byte) : Statement (.ldyZp b) := fun _ => rfl
theorem ldyZpX (b : Byte) : Statement (.ldyZpX b) := fun _ => rfl
theorem ldyAbs (a : Addr) : Statement (.ldyAbs a) := fun _ => rfl
theorem ldyAbsX (a : Addr) : Statement (.ldyAbsX a) := fun _ => rfl
theorem staZp (b : Byte) : Statement (.staZp b) := fun _ => rfl
theorem staZpX (b : Byte) : Statement (.staZpX b) := fun _ => rfl
theorem staAbs (a : Addr) : Statement (.staAbs a) := fun _ => rfl
theorem staAbsX (a : Addr) : Statement (.staAbsX a) := fun _ => rfl
theorem staAbsY (a : Addr) : Statement (.staAbsY a) := fun _ => rfl
theorem staIndX (b : Byte) : Statement (.staIndX b) := fun _ => rfl
theorem staIndY (b : Byte) : Statement (.staIndY b) := fun _ => rfl
theorem stxZp (b : Byte) : Statement (.stxZp b) := fun _ => rfl
theorem stxZpY (b : Byte) : Statement (.stxZpY b) := fun _ => rfl
theorem stxAbs (a : Addr) : Statement (.stxAbs a) := fun _ => rfl
theorem styZp (b : Byte) : Statement (.styZp b) := fun _ => rfl
theorem styZpX (b : Byte) : Statement (.styZpX b) := fun _ => rfl
theorem styAbs (a : Addr) : Statement (.styAbs a) := fun _ => rfl
theorem tax : Statement (.tax) := fun _ => rfl
theorem tay : Statement (.tay) := fun _ => rfl
theorem txa : Statement (.txa) := fun _ => rfl
theorem tya : Statement (.tya) := fun _ => rfl
theorem tsx : Statement (.tsx) := fun _ => rfl
theorem txs : Statement (.txs) := fun _ => rfl
theorem adcImm (v : Byte) : Statement (.adcImm v) := fun _ => rfl
theorem adcZp (b : Byte) : Statement (.adcZp b) := fun _ => rfl
theorem adcZpX (b : Byte) : Statement (.adcZpX b) := fun _ => rfl
theorem adcAbs (a : Addr) : Statement (.adcAbs a) := fun _ => rfl
theorem adcAbsX (a : Addr) : Statement (.adcAbsX a) := fun _ => rfl
theorem adcAbsY (a : Addr) : Statement (.adcAbsY a) := fun _ => rfl
theorem adcIndX (b : Byte) : Statement (.adcIndX b) := fun _ => rfl
theorem adcIndY (b : Byte) : Statement (.adcIndY b) := fun _ => rfl
theorem sbcImm (v : Byte) : Statement (.sbcImm v) := fun _ => rfl
theorem sbcZp (b : Byte) : Statement (.sbcZp b) := fun _ => rfl
theorem sbcZpX (b : Byte) : Statement (.sbcZpX b) := fun _ => rfl
theorem sbcAbs (a : Addr) : Statement (.sbcAbs a) := fun _ => rfl
theorem sbcAbsX (a : Addr) : Statement (.sbcAbsX a) := fun _ => rfl
theorem sbcAbsY (a : Addr) : Statement (.sbcAbsY a) := fun _ => rfl
theorem sbcIndX (b : Byte) : Statement (.sbcIndX b) := fun _ => rfl
theorem sbcIndY (b : Byte) : Statement (.sbcIndY b) := fun _ => rfl
theorem cmpImm (v : Byte) : Statement (.cmpImm v) := fun _ => rfl
theorem cmpZp (b : Byte) : Statement (.cmpZp b) := fun _ => rfl
theorem cmpZpX (b : Byte) : Statement (.cmpZpX b) := fun _ => rfl
theorem cmpAbs (a : Addr) : Statement (.cmpAbs a) := fun _ => rfl
theorem cmpAbsX (a : Addr) : Statement (.cmpAbsX a) := fun _ => rfl
theorem cmpAbsY (a : Addr) : Statement (.cmpAbsY a) := fun _ => rfl
theorem cmpIndX (b : Byte) : Statement (.cmpIndX b) := fun _ => rfl
theorem cmpIndY (b : Byte) : Statement (.cmpIndY b) := fun _ => rfl
theorem cpxImm (v : Byte) : Statement (.cpxImm v) := fun _ => rfl
theorem cpxZp (b : Byte) : Statement (.cpxZp b) := fun _ => rfl
theorem cpxAbs (a : Addr) : Statement (.cpxAbs a) := fun _ => rfl
theorem cpyImm (v : Byte) : Statement (.cpyImm v) := fun _ => rfl
theorem cpyZp (b : Byte) : Statement (.cpyZp b) := fun _ => rfl
theorem cpyAbs (a : Addr) : Statement (.cpyAbs a) := fun _ => rfl
theorem incZp (b : Byte) : Statement (.incZp b) := fun _ => rfl
theorem incZpX (b : Byte) : Statement (.incZpX b) := fun _ => rfl
theorem incAbs (a : Addr) : Statement (.incAbs a) := fun _ => rfl
theorem incAbsX (a : Addr) : Statement (.incAbsX a) := fun _ => rfl
theorem decZp (b : Byte) : Statement (.decZp b) := fun _ => rfl
theorem decZpX (b : Byte) : Statement (.decZpX b) := fun _ => rfl
theorem decAbs (a : Addr) : Statement (.decAbs a) := fun _ => rfl
theorem decAbsX (a : Addr) : Statement (.decAbsX a) := fun _ => rfl
theorem inx : Statement (.inx) := fun _ => rfl
theorem iny : Statement (.iny) := fun _ => rfl
theorem dex : Statement (.dex) := fun _ => rfl
theorem dey : Statement (.dey) := fun _ => rfl
theorem andImm (v : Byte) : Statement (.andImm v) := fun _ => rfl
theorem andZp (b : Byte) : Statement (.andZp b) := fun _ => rfl
theorem andZpX (b : Byte) : Statement (.andZpX b) := fun _ => rfl
theorem andAbs (a : Addr) : Statement (.andAbs a) := fun _ => rfl
theorem andAbsX (a : Addr) : Statement (.andAbsX a) := fun _ => rfl
theorem andAbsY (a : Addr) : Statement (.andAbsY a) := fun _ => rfl
theorem andIndX (b : Byte) : Statement (.andIndX b) := fun _ => rfl
theorem andIndY (b : Byte) : Statement (.andIndY b) := fun _ => rfl
theorem oraImm (v : Byte) : Statement (.oraImm v) := fun _ => rfl
theorem oraZp (b : Byte) : Statement (.oraZp b) := fun _ => rfl
theorem oraZpX (b : Byte) : Statement (.oraZpX b) := fun _ => rfl
theorem oraAbs (a : Addr) : Statement (.oraAbs a) := fun _ => rfl
theorem oraAbsX (a : Addr) : Statement (.oraAbsX a) := fun _ => rfl
theorem oraAbsY (a : Addr) : Statement (.oraAbsY a) := fun _ => rfl
theorem oraIndX (b : Byte) : Statement (.oraIndX b) := fun _ => rfl
theorem oraIndY (b : Byte) : Statement (.oraIndY b) := fun _ => rfl
theorem eorImm (v : Byte) : Statement (.eorImm v) := fun _ => rfl
theorem eorZp (b : Byte) : Statement (.eorZp b) := fun _ => rfl
theorem eorZpX (b : Byte) : Statement (.eorZpX b) := fun _ => rfl
theorem eorAbs (a : Addr) : Statement (.eorAbs a) := fun _ => rfl
theorem eorAbsX (a : Addr) : Statement (.eorAbsX a) := fun _ => rfl
theorem eorAbsY (a : Addr) : Statement (.eorAbsY a) := fun _ => rfl
theorem eorIndX (b : Byte) : Statement (.eorIndX b) := fun _ => rfl
theorem eorIndY (b : Byte) : Statement (.eorIndY b) := fun _ => rfl
theorem bitZp (b : Byte) : Statement (.bitZp b) := fun _ => rfl
theorem bitAbs (a : Addr) : Statement (.bitAbs a) := fun _ => rfl
theorem aslZp (b : Byte) : Statement (.aslZp b) := fun _ => rfl
theorem aslZpX (b : Byte) : Statement (.aslZpX b) := fun _ => rfl
theorem aslAbs (a : Addr) : Statement (.aslAbs a) := fun _ => rfl
theorem aslAbsX (a : Addr) : Statement (.aslAbsX a) := fun _ => rfl
theorem aslAcc : Statement (.aslAcc) := fun _ => rfl
theorem lsrZp (b : Byte) : Statement (.lsrZp b) := fun _ => rfl
theorem lsrZpX (b : Byte) : Statement (.lsrZpX b) := fun _ => rfl
theorem lsrAbs (a : Addr) : Statement (.lsrAbs a) := fun _ => rfl
theorem lsrAbsX (a : Addr) : Statement (.lsrAbsX a) := fun _ => rfl
theorem lsrAcc : Statement (.lsrAcc) := fun _ => rfl
theorem rolZp (b : Byte) : Statement (.rolZp b) := fun _ => rfl
theorem rolZpX (b : Byte) : Statement (.rolZpX b) := fun _ => rfl
theorem rolAbs (a : Addr) : Statement (.rolAbs a) := fun _ => rfl
theorem rolAbsX (a : Addr) : Statement (.rolAbsX a) := fun _ => rfl
theorem rolAcc : Statement (.rolAcc) := fun _ => rfl
theorem rorZp (b : Byte) : Statement (.rorZp b) := fun _ => rfl
theorem rorZpX (b : Byte) : Statement (.rorZpX b) := fun _ => rfl
theorem rorAbs (a : Addr) : Statement (.rorAbs a) := fun _ => rfl
theorem rorAbsX (a : Addr) : Statement (.rorAbsX a) := fun _ => rfl
theorem rorAcc : Statement (.rorAcc) := fun _ => rfl
theorem bcc (d : Byte) : Statement (.bcc d) := fun _ => rfl
theorem bcs (d : Byte) : Statement (.bcs d) := fun _ => rfl
theorem beq (d : Byte) : Statement (.beq d) := fun _ => rfl
theorem bmi (d : Byte) : Statement (.bmi d) := fun _ => rfl
theorem bne (d : Byte) : Statement (.bne d) := fun _ => rfl
theorem bpl (d : Byte) : Statement (.bpl d) := fun _ => rfl
theorem bvc (d : Byte) : Statement (.bvc d) := fun _ => rfl
theorem bvs (d : Byte) : Statement (.bvs d) := fun _ => rfl
theorem jmpAbs (a : Addr) : Statement (.jmpAbs a) := fun _ => rfl
theorem jmpInd (a : Addr) : Statement (.jmpInd a) := fun _ => rfl
theorem jsr (a : Addr) : Statement (.jsr a) := fun _ => rfl
theorem rts : Statement (.rts) := fun _ => rfl
theorem pha : Statement (.pha) := fun _ => rfl
theorem pla : Statement (.pla) := fun _ => rfl
theorem php : Statement (.php) := fun _ => rfl
theorem plp : Statement (.plp) := fun _ => rfl
theorem clc : Statement (.clc) := fun _ => rfl
theorem sec : Statement (.sec) := fun _ => rfl
theorem cli : Statement (.cli) := fun _ => rfl
theorem sei : Statement (.sei) := fun _ => rfl
theorem cld : Statement (.cld) := fun _ => rfl
theorem sed : Statement (.sed) := fun _ => rfl
theorem clv : Statement (.clv) := fun _ => rfl
theorem nop : Statement (.nop) := fun _ => rfl
theorem brk : Statement (.brk) := fun _ => rfl
theorem rti : Statement (.rti) := fun _ => rfl

/-- No byte of the illegal list is in either list of longer opcodes. -/
theorem illegalBytes_length : illegalBytes.all (fun op => opcodeLength op == 1) = true := by decide +kernel

theorem illegal (opcode : Byte) : Statement (.illegal opcode) := fun h =>
  (eq_of_beq (List.all_eq_true.mp illegalBytes_length opcode (List.contains_iff_mem.mp h))).symm

end Sys2Proof.Laws.EncodedLength
end

