-- ==== Sys2Proof/Tests/Slice0.lean ====
section
/-! SUPPORT. The model's own tests, and a witness for every obligation that has hypotheses. Expected values are the spec's: the
worked examples of the rules and the vectors of 95_test_vectors.md, cited at each. -/

namespace Sys2Proof.Tests
open Sys2Proof Sys2Proof.Machine

/-! ### Helpers -/

/-- The base state of a one-instruction vector (95_test_vectors.md, conventions) with a program at `at'`. -/
def baseAt (at' : Addr) (prog : List Byte) : State := placeBytes at' prog { State.reset with pc := at' }

/-- The base state with a program at 0xF000. -/
def base (prog : List Byte) : State := baseAt 0xF000 prog

/-- Whether an outcome is a next state with a property. -/
def nextIs (o : Host.Outcome State Fault Refusal) (f : State → Bool) : Bool :=
  match o with
  | .next t => f t
  | _ => false

/-- Whether one step gives these registers, this status word and this many cycles (from `hpos = 0`). -/
def gives (s : State) (a x y sp p : Byte) (pc : Addr) (cycles : Nat) : Bool :=
  nextIs (step s) fun t =>
    t.a == a && t.x == x && t.y == y && t.sp == sp && statusWord t == p && t.pc == pc && t.video.hpos == 3 * cycles

/-- The same, and the RAM after the step. -/
def givesRam (s : State) (a x y sp p : Byte) (pc : Addr) (cycles : Nat) (ram : Memory) : Bool :=
  gives s a x y sp p pc cycles && nextIs (step s) fun t => t.ram == ram

/-! ### Well-formedness, decoding, encoding -/

/-- The one check of WellFormed refuses `illegal` with a byte that has an entry (R139). -/
theorem test_wf_refuses_illegal_with_entry : (Instr.illegal 0xA9).wf = false ∧ (Instr.illegal 0x00).wf = false := by decide

/-- It accepts `illegal` with a byte that has none. -/
theorem test_wf_accepts_illegal_without_entry : (Instr.illegal 0x02).wf = true ∧ (Instr.illegal 0xFF).wf = true := by decide

/-- The decoder refuses byte lists that end too early. -/
theorem test_decode_short :
    (decode []).toOption = none ∧ (decode [0xA9]).toOption = none ∧ (decode [0xBD, 0x34]).toOption = none := ⟨rfl, rfl, rfl⟩

/-- Loads, one word per mode, bit by bit from R133, R134, R137. -/
theorem test_decode_load :
    decode [0b10101001#8, 0b00000101#8] = .ok (.ldaImm 0x05, []) ∧
    decode [0b10100101#8, 0b10000000#8] = .ok (.ldaZp 0x80, []) ∧
    decode [0b10110101#8, 0b11110000#8] = .ok (.ldaZpX 0xF0, []) ∧
    decode [0b10101101#8, 0b10000100#8, 0b00000010#8] = .ok (.ldaAbs 0x0284, []) ∧
    decode [0b10111101#8, 0b11110000#8, 0b00010000#8] = .ok (.ldaAbsX 0x10F0, []) ∧
    decode [0b10111001#8, 0b11111111#8, 0b11111111#8] = .ok (.ldaAbsY 0xFFFF, []) ∧
    decode [0b10100001#8, 0b01111110#8] = .ok (.ldaIndX 0x7E, []) ∧
    decode [0b10110001#8, 0b10000000#8] = .ok (.ldaIndY 0x80, []) ∧
    decode [0b10100010#8, 0b00000000#8] = .ok (.ldxImm 0x00, []) ∧
    decode [0b10110110#8, 0b10000000#8] = .ok (.ldxZpY 0x80, []) ∧
    decode [0b10100000#8, 0b01111111#8] = .ok (.ldyImm 0x7F, []) ∧
    decode [0b10111100#8, 0b00000001#8, 0b00000010#8] = .ok (.ldyAbsX 0x0201, []) := by
  refine ⟨rfl, rfl, rfl, rfl, rfl, rfl, rfl, rfl, rfl, rfl, rfl, rfl⟩

/-- Stores and transfers (R137). -/
theorem test_decode_store_transfer :
    decode [0b10000101#8, 0b10000000#8] = .ok (.staZp 0x80, []) ∧
    decode [0b10010001#8, 0b01000000#8] = .ok (.staIndY 0x40, []) ∧
    decode [0b10001110#8, 0b10010110#8, 0b00000010#8] = .ok (.stxAbs 0x0296, []) ∧
    decode [0b10010100#8, 0b10000000#8] = .ok (.styZpX 0x80, []) ∧
    decode [0b10101010#8] = .ok (.tax, []) ∧
    decode [0b10111010#8] = .ok (.tsx, []) ∧
    decode [0b10011010#8] = .ok (.txs, []) ∧
    decode [0b10011000#8] = .ok (.tya, []) := by
  refine ⟨rfl, rfl, rfl, rfl, rfl, rfl, rfl, rfl⟩

/-- Arithmetic (R137). -/
theorem test_decode_arithmetic :
    decode [0b01101001#8, 0b01010000#8] = .ok (.adcImm 0x50, []) ∧
    decode [0b11101001#8, 0b10110000#8] = .ok (.sbcImm 0xB0, []) ∧
    decode [0b11010001#8, 0b00010000#8] = .ok (.cmpIndY 0x10, []) ∧
    decode [0b11100000#8, 0b00000101#8] = .ok (.cpxImm 0x05, []) ∧
    decode [0b11000000#8, 0b00000000#8] = .ok (.cpyImm 0x00, []) ∧
    decode [0b11100110#8, 0b10000000#8] = .ok (.incZp 0x80, []) ∧
    decode [0b11011110#8, 0b00000001#8, 0b00010000#8] = .ok (.decAbsX 0x1001, []) ∧
    decode [0b11101000#8] = .ok (.inx, []) ∧
    decode [0b10001000#8] = .ok (.dey, []) := by
  refine ⟨rfl, rfl, rfl, rfl, rfl, rfl, rfl, rfl, rfl⟩

/-- Logic and shifts (R137). -/
theorem test_decode_logic_shift :
    decode [0b00101001#8, 0b00001111#8] = .ok (.andImm 0x0F, []) ∧
    decode [0b00001001#8, 0b10000000#8] = .ok (.oraImm 0x80, []) ∧
    decode [0b01001001#8, 0b11111111#8] = .ok (.eorImm 0xFF, []) ∧
    decode [0b00100100#8, 0b10000000#8] = .ok (.bitZp 0x80, []) ∧
    decode [0b00001010#8] = .ok (.aslAcc, []) ∧
    decode [0b01001110#8, 0b10000000#8, 0b00000001#8] = .ok (.lsrAbs 0x0180, []) ∧
    decode [0b00110110#8, 0b10000000#8] = .ok (.rolZpX 0x80, []) ∧
    decode [0b01101010#8] = .ok (.rorAcc, []) := by
  refine ⟨rfl, rfl, rfl, rfl, rfl, rfl, rfl, rfl⟩

/-- Branches, jumps, subroutines (R137). -/
theorem test_decode_control :
    decode [0b10010000#8, 0b00000010#8] = .ok (.bcc 0x02, []) ∧
    decode [0b11110000#8, 0b11111110#8] = .ok (.beq 0xFE, []) ∧
    decode [0b01110000#8, 0b00000010#8] = .ok (.bvs 0x02, []) ∧
    decode [0b01001100#8, 0b00000000#8, 0b11110000#8] = .ok (.jmpAbs 0xF000, []) ∧
    decode [0b01101100#8, 0b10000000#8, 0b00000000#8] = .ok (.jmpInd 0x0080, []) ∧
    decode [0b00100000#8, 0b00010000#8, 0b11110000#8] = .ok (.jsr 0xF010, []) ∧
    decode [0b01100000#8] = .ok (.rts, []) := by
  refine ⟨rfl, rfl, rfl, rfl, rfl, rfl, rfl⟩

/-- Stack, flag and system instructions, and illegal bytes (R137, R139). -/
theorem test_decode_stack_flags_system :
    decode [0b01001000#8] = .ok (.pha, []) ∧
    decode [0b01101000#8] = .ok (.pla, []) ∧
    decode [0b00001000#8] = .ok (.php, []) ∧
    decode [0b00101000#8] = .ok (.plp, []) ∧
    decode [0b00011000#8] = .ok (.clc, []) ∧
    decode [0b11111000#8] = .ok (.sed, []) ∧
    decode [0b10111000#8] = .ok (.clv, []) ∧
    decode [0b11101010#8] = .ok (.nop, []) ∧
    decode [0b00000000#8] = .ok (.brk, []) ∧
    decode [0b01000000#8] = .ok (.rti, []) ∧
    decode [0b00000010#8] = .ok (.illegal 0x02, []) ∧
    decode [0b11111111#8] = .ok (.illegal 0xFF, []) := by
  refine ⟨rfl, rfl, rfl, rfl, rfl, rfl, rfl, rfl, rfl, rfl, rfl, rfl⟩

/-- Encodings, little-endian operands (R134, R135). -/
theorem test_encode :
    encode (.ldaAbs 0x0284) = [0xAD, 0x84, 0x02] ∧ encode (.jsr 0xF010) = [0x20, 0x10, 0xF0] ∧
    encode (.bne 0xFD) = [0xD0, 0xFD] ∧ encode .rts = [0x60] ∧ encode (.illegal 0x80) = [0x80] := by decide

/-- The table's numbering of bits: the first byte is the least significant (spec/opcode_table.json). -/
theorem test_decode_table_word :
    decodeTableWord 24 0x0284AD = some (.ldaAbs 0x0284) ∧ decodeTableWord 8 0xA9 = some (.ldaImm 0x00) ∧
    decodeTableWord 16 0x80A5 = some (.ldaZp 0x80) ∧ decodeTableWord 8 0x02 = some (.illegal 0x02) := by decide

/-- `withFetchWord` of `LDA #$80` at reset: the next step runs it. -/
theorem test_with_fetch_word :
    nextIs (step (State.reset.withFetchWord 16 0x80A9)) (fun t => t.a == 0x80 && t.n && t.pc == 0xF002) = true := by decide +kernel

/-! ### One step -/

/-- R201 to R203 (worked examples), and LD2 (zero page indexed). -/
theorem test_loads :
    gives (base [0xA9, 0x80]) 0x80 0x00 0x00 0xFF 0xB4 0xF002 2 = true ∧
    gives (base [0xA2, 0x00]) 0x00 0x00 0x00 0xFF 0x36 0xF002 2 = true ∧
    gives (base [0xA0, 0x7F]) 0x00 0x00 0x7F 0xFF 0x34 0xF002 2 = true ∧
    gives { base [0xB5, 0xC0] with x := 0xC5, ram := [(5, 0x99)] } 0x99 0xC5 0x00 0xFF 0xB4 0xF002 4 = true := by decide +kernel

/-- R170, R174: `LDA $10F0,X` with X = 0x20 takes 5 cycles, with X = 0x0F 4; `LDA ($80),Y` with Y = 0x20 takes 6. -/
theorem test_load_page_cross :
    gives { base [0xBD, 0xF0, 0x10] with x := 0x20 } 0x00 0x20 0x00 0xFF 0x36 0xF003 5 = true ∧
    gives { base [0xBD, 0xF0, 0x10] with x := 0x0F } 0x00 0x0F 0x00 0xFF 0x36 0xF003 4 = true ∧
    gives { base [0xB1, 0x80] with y := 0x20, ram := [(0, 0xF0), (1, 0x10)] } 0x00 0x00 0x20 0xFF 0x36 0xF002 6 = true := by decide +kernel

/-- R204, R206 (worked examples). -/
theorem test_stores :
    givesRam { base [0x85, 0x80] with a := 0x3C } 0x3C 0x00 0x00 0xFF 0x34 0xF002 3 [(0, 0x3C)] = true ∧
    givesRam { base [0x94, 0x80] with x := 0x01, ram := [(1, 0x55)] } 0x00 0x01 0x00 0xFF 0x34 0xF002 4 [] = true := by decide +kernel

/-- R205 (worked example): `STX $0296` with X = 7 selects the 64-cycle prescale; 448 less the 4 cycles of the store is left. -/
theorem test_stx_timer :
    nextIs (step { base [0x8E, 0x96, 0x02] with x := 0x07 })
      (fun t => t.io.prescale == .div64 && t.io.timerRaw == 444 && t.io.timerWritten == 7 && ioRead 0x04 t.io == 6) = true := by
  decide +kernel

/-- R207 to R212 (worked examples). -/
theorem test_transfers :
    gives { base [0xAA] with a := 0xFF } 0xFF 0xFF 0x00 0xFF 0xB4 0xF001 2 = true ∧
    gives { base [0xA8] with y := 0x11 } 0x00 0x00 0x00 0xFF 0x36 0xF001 2 = true ∧
    gives { base [0x8A] with x := 0x10 } 0x10 0x10 0x00 0xFF 0x34 0xF001 2 = true ∧
    gives { base [0x98] with y := 0x80 } 0x80 0x00 0x80 0xFF 0xB4 0xF001 2 = true ∧
    gives (base [0xBA]) 0x00 0xFF 0x00 0xFF 0xB4 0xF001 2 = true ∧
    gives { base [0x9A] with x := 0xFF, sp := 0x00 } 0x00 0xFF 0x00 0xFF 0x34 0xF001 2 = true := by decide +kernel

/-- R221, R223 (worked examples), S3.1 (decimal) and S3.2. -/
theorem test_adc_sbc :
    gives { base [0x69, 0x50] with a := 0x50 } 0xA0 0x00 0x00 0xFF 0xF4 0xF002 2 = true ∧
    gives { base [0xE9, 0xB0] with a := 0x50, c := true } 0xA0 0x00 0x00 0xFF 0xF4 0xF002 2 = true ∧
    gives { base [0x69, 0x01] with a := 0x09, d := true } 0x10 0x00 0x00 0xFF 0x3C 0xF002 2 = true ∧
    gives { base [0x69, 0x01] with a := 0x09 } 0x0A 0x00 0x00 0xFF 0x34 0xF002 2 = true := by decide +kernel

/-- R226 to R228 (worked examples). -/
theorem test_compares :
    gives { base [0xC9, 0x41] with a := 0x40 } 0x40 0x00 0x00 0xFF 0xB4 0xF002 2 = true ∧
    gives { base [0xE0, 0x05] with x := 0x05 } 0x00 0x05 0x00 0xFF 0x37 0xF002 2 = true ∧
    gives { base [0xC0, 0x00] with y := 0xFF } 0x00 0x00 0xFF 0xFF 0xB5 0xF002 2 = true := by decide +kernel

/-- R229 to R234 (worked examples). -/
theorem test_inc_dec :
    givesRam { base [0xE6, 0x80] with ram := [(0, 0xFF)] } 0x00 0x00 0x00 0xFF 0x36 0xF002 5 [] = true ∧
    givesRam { base [0xC6, 0x81] with ram := [(1, 0x01)] } 0x00 0x00 0x00 0xFF 0x36 0xF002 5 [] = true ∧
    gives { base [0xE8] with x := 0xFF } 0x00 0x00 0x00 0xFF 0x36 0xF001 2 = true ∧
    gives { base [0xC8] with y := 0x7F } 0x00 0x00 0x80 0xFF 0xB4 0xF001 2 = true ∧
    gives (base [0xCA]) 0x00 0xFF 0x00 0xFF 0xB4 0xF001 2 = true ∧
    gives { base [0x88] with y := 0x01 } 0x00 0x00 0x00 0xFF 0x36 0xF001 2 = true := by decide +kernel

/-- R241 to R244 (worked examples). -/
theorem test_logic :
    gives { base [0x29, 0x0F] with a := 0xF0 } 0x00 0x00 0x00 0xFF 0x36 0xF002 2 = true ∧
    gives { base [0x09, 0x80] with a := 0x01 } 0x81 0x00 0x00 0xFF 0xB4 0xF002 2 = true ∧
    gives { base [0x49, 0xFF] with a := 0xFF } 0x00 0x00 0x00 0xFF 0x36 0xF002 2 = true ∧
    gives { base [0x24, 0x80] with a := 0x0F, ram := [(0, 0x40)] } 0x0F 0x00 0x00 0xFF 0x76 0xF002 3 = true := by decide +kernel

/-- R245 to R248 (worked examples). -/
theorem test_shifts :
    gives { base [0x0A] with a := 0x81 } 0x02 0x00 0x00 0xFF 0x35 0xF001 2 = true ∧
    gives { base [0x4A] with a := 0x03 } 0x01 0x00 0x00 0xFF 0x35 0xF001 2 = true ∧
    gives { base [0x2A] with a := 0x80, c := true } 0x01 0x00 0x00 0xFF 0x35 0xF001 2 = true ∧
    gives { base [0x6A] with a := 0x01, c := true } 0x80 0x00 0x00 0xFF 0xB5 0xF001 2 = true := by decide +kernel

/-- R263, R264, R268 to R270 (worked examples), S2.3 and S2.6. -/
theorem test_branches :
    gives (base [0x90, 0x02]) 0x00 0x00 0x00 0xFF 0x34 0xF004 3 = true ∧
    gives { base [0x90, 0x02] with c := true } 0x00 0x00 0x00 0xFF 0x35 0xF002 2 = true ∧
    gives { baseAt 0xF002 [0xB0, 0x10] with c := true } 0x00 0x00 0x00 0xFF 0x35 0xF014 3 = true ∧
    gives (base [0x10, 0x7F]) 0x00 0x00 0x00 0xFF 0x34 0xF081 3 = true ∧
    gives (baseAt 0xF100 [0x50, 0x80]) 0x00 0x00 0x00 0xFF 0x34 0xF082 4 = true ∧
    gives { baseAt 0xF002 [0x70, 0x02] with v := true } 0x00 0x00 0x00 0xFF 0x74 0xF006 3 = true ∧
    gives { baseAt 0xF0FA [0xF0, 0x05] with z := true } 0x00 0x00 0x00 0xFF 0x36 0xF101 4 = true ∧
    gives { baseAt 0xF0FE [0xF0, 0xFE] with z := true } 0x00 0x00 0x00 0xFF 0x36 0xF0FE 4 = true := by decide +kernel

/-- R266, R267: BMI with N = 0 and BNE with Z = 1 take 2 cycles; BNE -3 at 0xF011 goes back to 0xF010. -/
theorem test_branches_not_taken :
    gives (base [0x30, 0xFA]) 0x00 0x00 0x00 0xFF 0x34 0xF002 2 = true ∧
    gives { baseAt 0xF011 [0xD0, 0xFD] with z := true } 0x00 0x00 0x00 0xFF 0x36 0xF013 2 = true ∧
    gives (baseAt 0xF011 [0xD0, 0xFD]) 0x00 0x00 0x00 0xFF 0x34 0xF010 3 = true := by decide +kernel

/-- R271, R172 (worked examples). -/
theorem test_jumps :
    gives (base [0x4C, 0x00, 0xF0]) 0x00 0x00 0x00 0xFF 0x34 0xF000 3 = true ∧
    gives { base [0x6C, 0x80, 0x00] with ram := [(0, 0x34), (1, 0x12)] } 0x00 0x00 0x00 0xFF 0x34 0x1234 5 = true := by decide +kernel

/-- R272, R273 (worked examples). -/
theorem test_jsr_rts :
    givesRam (baseAt 0xF003 [0x20, 0x10, 0xF0]) 0x00 0x00 0x00 0xFD 0x34 0xF010 6 [(126, 0x05), (127, 0xF0)] = true ∧
    givesRam { baseAt 0xF010 [0x60] with sp := 0xFD, ram := [(126, 0x05), (127, 0xF0)] } 0x00 0x00 0x00 0xFF 0x34 0xF006 6 [(126, 0x05), (127, 0xF0)] = true := by decide +kernel

/-- R281 to R284 (worked examples). -/
theorem test_stack :
    givesRam { base [0x48] with a := 0x36 } 0x36 0x00 0x00 0xFE 0x34 0xF001 3 [(127, 0x36)] = true ∧
    gives { base [0x68] with a := 0x36, sp := 0xFE } 0x00 0x00 0x00 0xFF 0x36 0xF001 4 = true ∧
    givesRam { base [0x08] with z := true, sp := 0xFE, b := false } 0x00 0x00 0x00 0xFD 0x26 0xF001 3 [(126, 0x36)] = true ∧
    gives { base [0x28] with sp := 0xFD, ram := [(126, 0xC3)] } 0x00 0x00 0x00 0xFE 0xE3 0xF001 4 = true := by decide +kernel

/-- R285 (worked example), and the other flag instructions and NOP from the base state 0x34 (R286 to R292). -/
theorem test_flags_nop :
    gives { base [0x18] with c := true } 0x00 0x00 0x00 0xFF 0x34 0xF001 2 = true ∧
    gives (base [0x38]) 0x00 0x00 0x00 0xFF 0x35 0xF001 2 = true ∧
    gives (base [0x58]) 0x00 0x00 0x00 0xFF 0x30 0xF001 2 = true ∧
    gives { base [0x78] with i := false } 0x00 0x00 0x00 0xFF 0x34 0xF001 2 = true ∧
    gives { base [0xD8] with d := true } 0x00 0x00 0x00 0xFF 0x34 0xF001 2 = true ∧
    gives (base [0xF8]) 0x00 0x00 0x00 0xFF 0x3C 0xF001 2 = true ∧
    gives { base [0xB8] with v := true } 0x00 0x00 0x00 0xFF 0x34 0xF001 2 = true ∧
    gives (base [0xEA]) 0x00 0x00 0x00 0xFF 0x34 0xF001 2 = true := by decide +kernel

/-- R293, R294 (worked examples), with the vector 00 F8. -/
theorem test_brk_rti :
    givesRam (placeBytes 0xFFFE [0x00, 0xF8] { baseAt 0xF004 [0x00] with n := true, c := true, i := false, b := false })
      0x00 0x00 0x00 0xFC 0xB5 0xF800 7 [(125, 0xB1), (126, 0x06), (127, 0xF0)] = true ∧
    gives { baseAt 0xF800 [0x40] with sp := 0xFC, ram := [(125, 0xB1), (126, 0x06), (127, 0xF0)] } 0x00 0x00 0x00 0xFF 0xB1 0xF006 6 = true := by decide +kernel

/-- R162, R452: an illegal byte halts the CORE with the byte and its address; the next step faults. -/
theorem test_illegal :
    nextIs (step (base [0x02])) (fun t => t.halted == some (0x02, 0xF000) && t.pc == 0xF001 && t.video.hpos == 0) = true ∧
    step { base [0x02] with halted := some (0x02, 0xF000) } = .fault (.halted 0x02 0xF000) := by
  exact ⟨by decide +kernel, rfl⟩

/-- A decimal operand with a digit above 9 does not stop the run: the flags that are not free are as R221 gives them. -/
theorem test_adc_invalid_digits_runs :
    nextIs (step { base [0x69, 0x0A] with d := true }) (fun t => t.d && !t.v && t.pc == 0xF002 && t.freeCount == 1) = true := by
  decide +kernel

/-! ### Devices, cartridge, reset -/

/-- An 8 KB image with byte 0x01 at index 0 and 0x51 at index 0x1000 (S4). -/
def banked (k : Bool) : State := { State.reset with cart := { image := [(0, 0x01), (0x1000, 0x51)], size := .kb8, bank := k } }

/-- S4, steps 1, 3, 4, 7, 10: the hot spots read 0 and select; reads and writes both. -/
theorem test_bank_switch :
    busValue 0x1000 (banked false) = 0x01 ∧ busRead 0x1FF9 (banked false) = (0x00, banked true) ∧
    busValue 0x1000 (banked true) = 0x51 ∧ busWrite 0x1FF9 0x55 (banked true) = banked true ∧
    busRead 0xFFF8 (banked true) = (0x00, banked false) ∧ busWrite 0x3FF9 0x00 (banked false) = banked true := by decide +kernel

/-- S5, third start: STA WSYNC at `hpos = 219` wraps in its own clock call, so that no waiting step follows (R390). -/
theorem test_wsync_wrap :
    (let s := base [0x85, 0x02]
     nextIs (step { s with video := { s.video with hpos := 219, vpos := 5 } })
      (fun t => t.video.hpos == 0 && t.video.vpos == 6 && !t.video.waiting && !t.video.wsyncLatch)) = true := by decide +kernel

/-- S5, second start: at `hpos = 216` the machine waits at 225, and one waiting step ends it. -/
theorem test_wsync_wait :
    (let s := base [0x85, 0x02]
     nextIs (step { s with video := { s.video with hpos := 216, vpos := 5 } }) (fun t =>
      t.video.hpos == 225 && t.video.waiting && nextIs (step t) (fun u => u.video.hpos == 0 && !u.video.waiting && u.pc == t.pc))) =
        true := by decide +kernel

/-- R389 (worked examples): RESP0 begun at `hpos = 90` commits 104; RESM0 begun at 222 commits 7. -/
theorem test_position_strobes :
    (let s := base [0x85, 0x10]
     nextIs (step { s with video := { s.video with hpos := 90 } }) (fun t => t.video.startPos.p0 == 104)) = true ∧
    (let s := base [0x85, 0x12]
     nextIs (step { s with video := { s.video with hpos := 222 } }) (fun t => t.video.startPos.m0 == 7 && t.video.hpos == 3)) =
        true := by decide +kernel

/-- R312 (worked example): `LDA #$02; STA $00` at `hpos = 120, vpos = 261` leaves `hpos = 9, vpos = 0` and one `refresh()`. -/
theorem test_vsync :
    (let s := base [0x85, 0x00]
     nextIs (step { s with a := 0x02, video := { s.video with hpos := 120, vpos := 261 } })
      (fun t => t.video.hpos == 9 && t.video.vpos == 0 && t.video.events == [.refresh])) = true := by decide +kernel

/-- R330 (worked examples): the motion offsets of 0x70, 0x80, 0xF0, 0x0F. -/
theorem test_motion_offset :
    motionOffset 0x70 = 7 ∧ motionOffset 0x80 = -8 ∧ motionOffset 0xF0 = -1 ∧ motionOffset 0x0F = 0 := by decide

/-- R324 (worked example): PF0 = 0xF0 with the mirror bit clear lights columns 0 to 3 and 20 to 23, with it set 0 to 3 and 36 to 39. -/
theorem test_playfield :
    (List.range 40).filter (pfPattern { Video.reset with pf0 := 0xF0 }) = [0, 1, 2, 3, 20, 21, 22, 23] ∧
    (List.range 40).filter (pfPattern { Video.reset with pf0 := 0xF0, ctrlpf := 0x01 }) = [0, 1, 2, 3, 36, 37, 38, 39] := by
  decide +kernel

/-- R481 (worked example): a 4 KB image with 00 F0 at offsets 0xFFC, 0xFFD starts at 0xF000; every other field is the reset's. -/
theorem test_reset_vector :
    hostCall .reset (placeBytes 0xFFFC [0x00, 0xF0] { State.reset with a := 5, sp := 3, ram := [(7, 7)], halted := some (2, 3) }) =
      placeBytes 0xFFFC [0x00, 0xF0] { State.reset with pc := 0xF000 } := by decide +kernel

/-- The vectors of 95_test_vectors.md for BLPF, P0P1 and M0M1 alone (0x06 reads 80, 0x07 reads 80, 0x07 reads 40) and for all fifteen
latches (0x06 reads 80, 0x07 reads C0) (R349, R350, log entry 15). -/
theorem test_collision_registers :
    videoRead 0x06 { Video.reset with cx := { Collisions.clear with blpf := true } } = 0x80 ∧
    videoRead 0x07 { Video.reset with cx := { Collisions.clear with p0p1 := true } } = 0x80 ∧
    videoRead 0x07 { Video.reset with cx := { Collisions.clear with m0m1 := true } } = 0x40 ∧
    (let all : Collisions := ⟨true, true, true, true, true, true, true, true, true, true, true, true, true, true, true⟩
     videoRead 0x06 { Video.reset with cx := all } = 0x80 ∧ videoRead 0x07 { Video.reset with cx := all } = 0xC0) := by decide

/-- R432: pressing player 0's joystick right clears bit 7 of SWCHA; pressing the fire button of player 1 clears INPT5 (R352). -/
theorem test_host_calls :
    (hostCalls [.setJoystick .p0 .right true, .setFire .p1 true, .setSwitch .reset false] State.reset).io.swcha = 0x7F ∧
    (hostCalls [.setJoystick .p0 .right true, .setFire .p1 true, .setSwitch .reset false] State.reset).io.swchb = 0xFE ∧
    (hostCalls [.setJoystick .p0 .right true, .setFire .p1 true] State.reset).video.inpt5 = 0x00 := by decide +kernel

/-! ### Witnesses of the obligations' hypotheses -/

/-- DecodeOfEncode: well-formed instructions at the ends of their operands' ranges. -/
theorem witness_DecodeOfEncode :
    (Instr.ldaAbsX 0xFFFF).wf = true ∧ (Instr.bne 0x80).wf = true ∧ (Instr.illegal 0xFF).wf = true := by decide

/-- EncodeOfDecode: bytes that decode. -/
theorem witness_EncodeOfDecode :
    decode [0xBD, 0xFF, 0xFF] = .ok (.ldaAbsX 0xFFFF, []) ∧ decode [0x02, 0x00] = .ok (.illegal 0x02, [0x00]) := ⟨rfl, rfl⟩

/-- StepRunsDecodedInstruction, both clauses: a running state whose fetched bytes decode and whose fetch selects no bank. -/
theorem witness_StepRunsDecodedInstruction :
    Running (base [0xAD, 0x84, 0x02]) ∧ decode (fetchBytes (base [0xAD, 0x84, 0x02])).1 = .ok (.ldaAbs 0x0284, []) ∧
    FetchQuiet (base [0xAD, 0x84, 0x02]) ∧
    decode [busValue 0xF000 (base [0xAD, 0x84, 0x02]), busValue 0xF001 (base [0xAD, 0x84, 0x02]),
      busValue 0xF002 (base [0xAD, 0x84, 0x02])] = .ok (.ldaAbs 0x0284, []) := by
  refine ⟨⟨rfl, rfl, rfl⟩, rfl, ?_, rfl⟩
  unfold FetchQuiet
  decide +kernel

/-- The first clause at a hot spot: an 8 KB cartridge fetches 0, BRK, at 0x1FF9, and bank 1 is selected. -/
theorem witness_StepRunsDecodedInstruction_hot :
    Running { banked false with pc := 0x1FF9 } ∧ decode (fetchBytes { banked false with pc := 0x1FF9 }).1 = .ok (.brk, []) ∧
    (fetchBytes { banked false with pc := 0x1FF9 }).2.cart.bank = true := by
  refine ⟨⟨rfl, rfl, rfl⟩, rfl, ?_⟩
  decide +kernel

/-- A state that waits at pixel counter `h` of the frame's last line. -/
def waitingAt (h : Nat) : State :=
  { State.reset with video := { Video.reset with hpos := h, vpos := 261, wsyncLatch := true, waiting := true } }

/-- It waits at `hpos = 225`, the last tick group of a line. -/
def waitingState : State := waitingAt 225

/-- SystemStepCases: the three cases. -/
theorem witness_SystemStepCases :
    ({ State.reset with halted := some (0x02, 0xF000) } : State).inputs = [] ∧
    (waitingState.inputs = [] ∧ waitingState.halted = none ∧ waitingState.video.waiting = true) ∧
    (State.reset.inputs = [] ∧ State.reset.halted = none ∧ State.reset.video.waiting = false) := by decide

/-- IllegalOpcodeHaltsTheCore: a running state with an illegal byte at `PC`. -/
theorem witness_IllegalOpcodeHaltsTheCore :
    illegalBytes.contains (0x02 : Byte) = true ∧ illegalBytes.contains (0xFF : Byte) = true ∧ Running (base [0xFF]) ∧
    illegalBytes.contains (busValue (base [0xFF]).pc (base [0xFF])) = true := by
  refine ⟨by decide, by decide, ⟨rfl, rfl, rfl⟩, by decide +kernel⟩

/-- Loads, stores, compares, INC and DEC, logic and BIT: an instruction of each mnemonic. -/
theorem witness_mnemonics :
    (Instr.ldaIndY 0xFF).mnemonic = .lda ∧ (Instr.ldxZpY 0xFF).mnemonic = .ldx ∧ (Instr.ldyAbsX 0xFFFF).mnemonic = .ldy ∧
    (Instr.staIndX 0xFF).mnemonic = .sta ∧ (Instr.stxZpY 0).mnemonic = .stx ∧ (Instr.styZpX 0).mnemonic = .sty ∧
    (Instr.cmpAbsY 0xFFFF).mnemonic = .cmp ∧ (Instr.cpxAbs 0).mnemonic = .cpx ∧ (Instr.cpyImm 0).mnemonic = .cpy ∧
    (Instr.incAbsX 0xFFFF).mnemonic = .inc ∧ (Instr.decZpX 0xFF).mnemonic = .dec ∧ (Instr.andImm 0).mnemonic = .and ∧
    (Instr.oraZp 0).mnemonic = .ora ∧ (Instr.eorAbs 0).mnemonic = .eor ∧ (Instr.bitAbs 0).mnemonic = .bit := by decide

/-- AdcBinaryResult, SbcBinaryResult, OverflowIsSignedOverflow: binary mode. -/
theorem witness_binary :
    (Instr.adcImm 0xFF).mnemonic = .adc ∧ (Instr.sbcIndY 0xFF).mnemonic = .sbc ∧ State.reset.d = false := by decide

/-- DecimalResultOfValidDigits: the largest decimal operands, with the carry that takes 99 + 99 + 1 over 100. -/
theorem witness_DecimalResultOfValidDigits :
    (let s : State := { State.reset with d := true, a := 0x99, c := true }
     s.d = true ∧ isBcd s.a = true ∧ (Instr.adcImm 0x99).operand = some (.imm 0x99) ∧
      isBcd (readOperand (.imm 0x99) s).1 = true ∧ (Instr.sbcImm 0x00).operand = some (.imm 0x00) ∧
      isBcd (readOperand (.imm 0x00) s).1 = true) := by decide

/-- DecimalResultOfInvalidDigitsIsFree: the smallest digit above 9, in the operand and in `A`. -/
theorem witness_DecimalResultOfInvalidDigitsIsFree :
    (let s : State := { State.reset with d := true }
     s.d = true ∧ (isBcd s.a && isBcd (readOperand (.imm 0x0A) s).1) = false) ∧
    (let s : State := { State.reset with d := true, a := 0xA0 }
     s.d = true ∧ (isBcd s.a && isBcd (readOperand (.imm 0x00) s).1) = false) := by decide

/-- ShiftsAndRotates: memory and accumulator forms. -/
theorem witness_ShiftsAndRotates :
    ((Instr.rolAbsX 0xFFFF).mnemonic = .rol ∧ (Instr.rolAbsX 0xFFFF).operand = some (.absx 0xFFFF)) ∧
    ((Instr.aslZp 0).mnemonic = .asl ∧ (Instr.aslZp 0).operand = some (.zp 0)) ∧ Instr.rorAcc.operand = none := by decide

/-- ReturnsUndoCalls: the lowest stack pointers it covers. -/
theorem witness_ReturnsUndoCalls :
    (let s : State := { State.reset with sp := 0x81 }
     RamOk s.ram ∧ 0x81 ≤ s.sp.toNat) ∧
    (let s : State := { State.reset with sp := 0x82 }
     RamOk s.ram ∧ 0x82 ≤ s.sp.toNat) := by
  refine ⟨⟨⟨rfl, rfl⟩, by decide⟩, ⟨⟨rfl, rfl⟩, by decide⟩⟩

/-- OnlyListedInstructionsWriteEachRegister: an instruction that writes none of the listed registers answers; and one of each kind. -/
theorem witness_OnlyListedInstructionsWriteEachRegister :
    (∃ t, exec .nop State.reset = .next t) ∧ writesA .nop = false ∧ writesX .nop = false ∧ writesY .nop = false ∧
    writesSp .nop = false ∧ writesC .nop = false ∧ writesZ .nop = false ∧ writesN .nop = false ∧ writesI .nop = false ∧
    writesD .nop = false ∧ writesV .nop = false ∧ writesB .nop = false ∧ Instr.nop.mnemonic ≠ .illegal ∧
    State.reset.d = false := by
  refine ⟨⟨_, rfl⟩, ?_⟩
  decide

/-- InstructionsThatStoreNothingKeepMemory: a load, and an illegal opcode. -/
theorem witness_InstructionsThatStoreNothingKeepMemory :
    storesNothing (.ldaAbs 0x1FF9) = true ∧ (∃ t, exec (.ldaAbs 0x1FF9) (banked false) = .next t) ∧
    storesNothing (.illegal 0x02) = true ∧ (∃ t, exec (.illegal 0x02) (banked false) = .next t) ∧ target 0x01FF = .ram 0x7F := by
  refine ⟨rfl, ⟨_, rfl⟩, rfl, ⟨_, rfl⟩, ?_⟩
  decide

/-- StoresKeepOtherMemory: a store to RAM, to the cartridge, to the video chip, to the timer. -/
theorem witness_StoresKeepOtherMemory :
    RamOk State.reset.ram ∧ storesOperand (.incZp 0xFF) = true ∧ (Instr.incZp 0xFF).operand = some (.zp 0xFF) ∧
    (∃ t, exec (.incZp 0xFF) State.reset = .next t) ∧ target (effectiveAddress (.zp 0xFF) State.reset) = .ram 0x7F ∧
    target 0x0080 ≠ target (effectiveAddress (.zp 0xFF) State.reset) ∧
    target (effectiveAddress (.abs 0x1FF8) State.reset) = .cart 0xFF8 ∧
    target (effectiveAddress (.zp 0x02) State.reset) = .video 0x02 ∧
    target (effectiveAddress (.abs 0x0297) State.reset) = .io 0x17 := by
  refine ⟨⟨rfl, rfl⟩, rfl, rfl, ⟨_, rfl⟩, ?_⟩
  decide

/-- PushesKeepOtherMemory: the least stack pointer at which BRK stays in RAM, and a RAM cell it does not name. -/
theorem witness_PushesKeepOtherMemory :
    (let s : State := { State.reset with sp := 0x82 }
     RamOk s.ram ∧ 0 < pushCount .brk ∧ (∃ t, exec .brk s = .next t) ∧ 0x7F + pushCount .brk ≤ s.sp.toNat ∧
      target 0x0083 = .ram 0x03 ∧ ∀ j, j < pushCount .brk → target 0x0083 ≠ target (stackAddr (s.sp - BitVec.ofNat 8 j))) ∧
    0 < pushCount .pha ∧ 0 < pushCount (.jsr 0) := by
  refine ⟨⟨⟨rfl, rfl⟩, by decide, ⟨_, rfl⟩, by decide, by decide, ?_⟩, by decide, by decide⟩
  decide

/-- CartridgeImageNeverChanges, InvariantKeptByEveryStep, BreakFlagIsUnobservable: steps that answer, and one that stops. -/
theorem witness_steps :
    (∃ t, step waitingState = .next t) ∧ (∃ t, step State.reset = .next t) ∧
    step { State.reset with halted := some (0x02, 0x0000) } = .fault (.halted 0x02 0x0000) := ⟨⟨_, rfl⟩, ⟨_, rfl⟩, rfl⟩

/-- A waiting state whose pixel counter is in range meets the invariant. -/
theorem inv_waitingAt (h : Nat) (hlt : h < 228) (hmod : h % 3 = 0) : Inv (waitingAt h) := by
  refine ⟨⟨⟨rfl, rfl⟩, ⟨rfl, rfl⟩, ?_, ⟨hlt, hmod, ?_, ?_, ?_, ?_⟩, ⟨⟨rfl, rfl⟩, ?_, ?_⟩⟩, ⟨rfl, rfl⟩⟩
  · show (0 : Nat) < 256 * 2 ^ 0; decide
  · show (261 : Nat) < 262; decide
  · intro o; cases o <;> exact .inl rfl
  · intro o; cases o <;> exact (by decide : -8 ≤ (0 : Int) ∧ (0 : Int) ≤ 7)
  · intro o; cases o <;> exact (by decide : -8 ≤ (0 : Int) ∧ (0 : Int) ≤ 7)
  · show (0 : Nat) < 256 * 2 ^ 0; decide
  · show (40 : Nat) ≤ 70; decide

/-- InvariantKeptByEveryStep, WsyncWaitEndsAtTheNextLine: the longest wait, 76 steps from `hpos = 0`, and the shortest, 1 from 225. -/
theorem witness_Inv :
    (Inv (waitingAt 0) ∧ (waitingAt 0).inputs = [] ∧ (waitingAt 0).halted = none ∧ (waitingAt 0).video.waiting = true) ∧
    (Inv waitingState ∧ waitingState.inputs = [] ∧ waitingState.halted = none ∧ waitingState.video.waiting = true) :=
  ⟨⟨inv_waitingAt 0 (by decide) (by decide), rfl, rfl, rfl⟩, ⟨inv_waitingAt 225 (by decide) (by decide), rfl, rfl, rfl⟩⟩

/-- EffectiveAddressesOfTheModes: instructions with an immediate and with the mode `zpy`, and an operand that is no immediate. -/
theorem witness_EffectiveAddressesOfTheModes :
    (Instr.ldaImm 0xFF).operand = some (.imm 0xFF) ∧ (Instr.ldxZpY 0xFF).operand = some (.zpy 0xFF) ∧
    (Instr.stxZpY 0x00).operand = some (.zpy 0x00) ∧ ∀ w, Operand.abs 0xFFFF ≠ .imm w := by
  refine ⟨rfl, rfl, rfl, ?_⟩
  intro w h
  cases h

/-- DecodeWordsFromTheOpcodeMap: the first and the last byte with no entry. -/
theorem witness_DecodeWordsFromTheOpcodeMap :
    illegalBytes.contains (0x02 : Byte) = true ∧ illegalBytes.contains (0xFF : Byte) = true := by decide

/-- AddressDecodeMap, DeviceReadRegisters, VideoStrobeRegisters, TimerWritesReloadTheCounter: addresses at the ends of each kind's range (R92). -/
theorem witness_targets :
    target 0x1000 = .cart 0x000 ∧ target 0xFFFF = .cart 0xFFF ∧ target 0x0000 = .video 0x00 ∧ target 0x007F = .video 0x3F ∧
    target 0x0080 = .ram 0x00 ∧ target 0xEDFF = .ram 0x7F ∧ target 0x0280 = .io 0x00 ∧ target 0x02FF = .io 0x1F ∧
    target 0x0294 = .io 0x14 ∧ target 0x0295 = .io 0x15 ∧ target 0x0296 = .io 0x16 ∧ target 0x0297 = .io 0x17 ∧
    target 0x0293 = .io 0x13 ∧ target 0x0298 = .io 0x18 := by decide

/-- CartridgeWindowAndHotSpots: the sizes, the hot spots and their neighbours, the ends of the window. -/
theorem witness_CartridgeWindowAndHotSpots :
    ((0x1FF8 : Addr).getLsbD 12 = true ∧ (0x1FF8 : Addr).extractLsb' 0 12 = 0xFF8#12) ∧
    ((0xFFF9 : Addr).getLsbD 12 = true ∧ (0xFFF9 : Addr).extractLsb' 0 12 = 0xFF9#12) ∧
    ((0x1FF7 : Addr).getLsbD 12 = true ∧ (0x1FFA : Addr).getLsbD 12 = true) ∧ (banked true).cart.size = .kb8 ∧
    target 0x1FF8 = .cart 0xFF8 ∧ target 0x1FF9 = .cart 0xFF9 ∧ (banked true).cart.bank = true ∧ (banked false).cart.bank = false ∧
    State.reset.cart.size = .kb4 ∧ ({ State.reset.cart with size := .kb2 } : Cart).size = .kb2 := by decide

/-- RamReadAfterWrite: a RAM address and its mirror; a cartridge address that is no hot spot. -/
theorem witness_RamReadAfterWrite :
    RamOk State.reset.ram ∧ target 0x00FF = .ram 0x7F ∧ target 0x01FF = .ram 0x7F ∧
    ∀ off, target 0x1FF7 = .cart off → (banked true).cart.hot off = false := by
  refine ⟨⟨rfl, rfl⟩, by decide, by decide, ?_⟩
  intro off h
  have : off = 0xFF7#12 := by
    have h' : target 0x1FF7 = .cart 0xFF7 := by decide
    rw [h'] at h
    exact (Target.cart.inj h).symm
  subst this
  decide

/-- DeviceReadRegisters, VideoStrobeRegisters, TimerWritesReloadTheCounter: register numbers at the ends of the ranges. -/
theorem witness_register_numbers :
    (8 ≤ (0x08 : BitVec 6).toNat ∧ (0x0B : BitVec 6).toNat ≤ 11) ∧ 14 ≤ (0x0E : BitVec 6).toNat ∧ 0x2D ≤ (0x2D : BitVec 6).toNat ∧
    0x2D ≤ (0x3F : BitVec 6).toNat ∧ (0x13 : BitVec 5).toNat < 0x14 ∧ 0x17 < (0x18 : BitVec 5).toNat ∧
    ((0x05 : BitVec 5) ≠ 0x00 ∧ (0x05 : BitVec 5) ≠ 0x02 ∧ (0x05 : BitVec 5) ≠ 0x04) ∧ (0x2B : BitVec 6) ≠ 0x2C := by decide

/-- PlayfieldPatternRepeatsOrMirrors, CompositePriority: both values of each CTRLPF bit. -/
theorem witness_ctrlpf :
    Video.reset.ctrlpf.getLsbD 0 = false ∧ ({ Video.reset with ctrlpf := 0x01 } : Video).ctrlpf.getLsbD 0 = true ∧
    Video.reset.ctrlpf.getLsbD 2 = false ∧ ({ Video.reset with ctrlpf := 0x04 } : Video).ctrlpf.getLsbD 2 = true := by decide

/-- The counters at the ends of a line and of a frame (TickRendersThenCounts, PendingShapesCommitAtLineStart, FrameIs262LinesOf228,
PositionStrobesCommitAfterTheClock, WaitingIsTheLatchAfterTheClock). -/
def lineEnd : Video := { Video.reset with hpos := 227, vpos := 261, grpPending := ⟨true, false⟩, armed := ⟨true, false, false, false, true⟩ }

/-- They meet the hypotheses on the counters, a pending shape, an armed object and one that is not. -/
theorem witness_counters :
    lineEnd.hpos < 228 ∧ lineEnd.vpos < 262 ∧ lineEnd.hpos = 227 ∧ Video.reset.hpos ≠ 227 ∧ Video.reset.hpos + 227 < 228 ∧
    lineEnd.armed.get .p0 = true ∧ lineEnd.armed.get .m0 = false ∧ lineEnd.grpPending.get .p0 = true := by decide

/-- CollisionLatchesAreSticky: a latch that is set. -/
theorem witness_CollisionLatchesAreSticky :
    ∃ k ∈ Collisions.latches, k ({ Video.reset with cx := { Collisions.clear with m0m1 := true } } : Video).cx = true :=
  ⟨(·.m0m1), by simp [Collisions.latches], rfl⟩

/-- TimerReadAfterCycles, TimerCountsDownModuloItsRange: the last count of the range, and a counter at its top. -/
theorem witness_timer :
    (1 ≤ 256 * 2 ^ Prescale.div1024.shift) ∧ IoOk { State.reset.io with timerRaw := 255 } ∧
    IoOk { State.reset.io with prescale := .div1024, timerRaw := 262143 } := by
  unfold IoOk
  decide

/-- HostCallsMoveOneLine: a turn with calls, and a reset. -/
theorem witness_HostCallsMoveOneLine :
    ({ State.reset with inputs := [[.setFire .p0 true], [.reset]] } : State).inputs = [.setFire .p0 true] :: [[.reset]] := rfl

end Sys2Proof.Tests
end

