-- ==== Sys2Proof/Proofs/HostCalls.lean ====
section
/-! PROOFS. The host's turn and its input calls (R7, R352, R425, R432). -/

namespace Sys2Proof.Machine

/-- A step in whose turn the host makes calls is the system step of the state those calls leave (R7). -/
theorem step_of_inputs_cons {s : State} {calls : List HostCall} {rest : List (List HostCall)}
    (h : s.inputs = calls :: rest) : step s = systemStep (hostCalls calls { s with inputs := rest }) := by
  simp only [step, hostTurn, h]

/-- `setBit` moves bit `bit` to `level` and keeps the others (R432): its mask is the one bit. -/
theorem getLsbD_setBit {bit k : Nat} (hbit : bit < 8) (hk : k < 8) (level : Bool) (w : Byte) :
    (setBit bit level w).getLsbD k = if k = bit then level else w.getLsbD k := by
  have mask : (1#8 <<< bit).getLsbD k = decide (k = bit) := by
    rw [← BitVec.twoPow_eq, BitVec.getLsbD_twoPow, decide_eq_true hbit, Bool.true_and, decide_eq_decide.2 eq_comm]
  have bits : (setBit bit level w).getLsbD k =
      if level then w.getLsbD k || decide (k = bit) else w.getLsbD k && !decide (k = bit) := by
    cases level
    · simp only [setBit, Bool.false_eq_true, if_false, BitVec.getLsbD_and, BitVec.getLsbD_not, mask, hk, decide_true,
        Bool.true_and]
    · simp only [setBit, if_true, BitVec.getLsbD_or, mask]
  rw [bits]
  by_cases e : k = bit
  · simp [e]
  · simp [e]

/-- A joystick direction is active low: pressing it is `SetLine` of its SWCHA bit to 0 (R425, R432). -/
theorem hostCall_setJoystick {p : Player} {dir : Direction} {bit : Fin 8} (h : joystickBit p dir = bit.val)
    (pressed : Bool) (s : State) :
    hostCall (.setJoystick p dir pressed) s = hostCall (.setLine .swcha bit (!pressed)) s := by
  simp only [hostCall, h]

/-- A console switch is `SetLine` of its SWCHB bit to the same level (R425, R432). -/
theorem hostCall_setSwitch {which : ConsoleSwitch} {bit : Fin 8} (h : switchBit which = bit.val)
    (level : Bool) (s : State) :
    hostCall (.setSwitch which level) s = hostCall (.setLine .swchb bit level) s := by
  simp only [hostCall, h]

/-- Settles O56: the first list of calls is made before the system step, and each input call is one register or one bit of one. -/
theorem hostCallsMoveOneLine : Obligations.HostCallsMoveOneLine := by
  unfold Obligations.HostCallsMoveOneLine
  refine ⟨fun s calls rest h => step_of_inputs_cons h, fun s level => ⟨rfl, rfl, ?swcha, ?swchb, ?joystick, ?switch⟩⟩
  case swcha => exact fun bit => ⟨_, rfl, fun k hk => getLsbD_setBit bit.isLt hk level _⟩
  case swchb => exact fun bit => ⟨_, rfl, fun k hk => getLsbD_setBit bit.isLt hk level _⟩
  case joystick =>
    intro e he
    have hbit : joystickBit e.1 e.2.1 = e.2.2.val := by revert e; decide
    exact hostCall_setJoystick hbit level s
  case switch =>
    intro e he
    have hbit : switchBit e.1 = e.2.val := by revert e; decide
    exact hostCall_setSwitch hbit level s

end Sys2Proof.Machine
end

