-- ==== Sys2Proof/Proofs/SystemStep.lean ====
section
/-! PROOFS. The cases of the system step (R160) and the reset sequence (R481). -/

namespace Sys2Proof.Machine

/-! ### The three cases of the system step (R160) -/

theorem step_of_inputs_nil {s : State} (h : s.inputs = []) : step s = systemStep s := by rw [step, hostTurn_nil h]

theorem systemStep_of_halted {s : State} {h : Byte × Addr} (hh : s.halted = some h) :
    systemStep s = .fault (.halted h.1 h.2) := by simp only [systemStep, hh]

theorem systemStep_of_waiting {s : State} (hh : s.halted = none) (hw : s.video.waiting = true) :
    systemStep s = .next (busClock 1 s) := by simp only [systemStep, hh, hw, if_true, retire]

theorem systemStep_of_running {s : State} (hh : s.halted = none) (hw : s.video.waiting = false) :
    systemStep s = exec (fetchInstr s).1 (fetchInstr s).2 := by
  simp only [systemStep, hh, hw, Bool.false_eq_true, if_false, runInstr]

/-- A clock call leaves the CPU alone (R85). -/
theorem busClock_sameCpu (n : Nat) (s : State) : SameCpu s (busClock n s) :=
  ⟨rfl, rfl, rfl, rfl, rfl, rfl, rfl, rfl, rfl, rfl, rfl, rfl, rfl⟩

/-- Settles O5: with no host call to come, the step is the system step, and that has three cases. -/
theorem systemStepCases : Obligations.SystemStepCases := by
  unfold Obligations.SystemStepCases
  intro s hs
  rw [step_of_inputs_nil hs]
  refine ⟨fun op addr hh => systemStep_of_halted hh, fun hh hw => ?waiting, fun hh hw => systemStep_of_running hh hw⟩
  case waiting => exact ⟨systemStep_of_waiting hh hw, busClock_sameCpu 1 s, rfl, rfl⟩

/-! ### Reset (R481) -/

/-- A read of the cartridge window off the hot spots returns the byte of the image and selects no bank (R101, R104). -/
theorem busRead_of_cold {p : Addr} {off : BitVec 12} {s : State} (ht : target p = .cart off)
    (hc : s.cart.hot off = false) : busRead p s = (s.cart.read off, s) := by
  have value : busValue p s = s.cart.read off := by simp only [busValue, ht, hc, Bool.false_eq_true, if_false]
  have touch : busTouch p s = s := busTouch_of_cold fun off' e => by
    obtain rfl : off = off' := Target.cart.inj (ht.symm.trans e)
    exact hc
  rw [busRead_eq, value, touch]

theorem Cart.hot_of_ne {c : Cart} {off : BitVec 12} (h0 : off ≠ Config.hotSpot0) (h1 : off ≠ Config.hotSpot1) :
    c.hot off = false := by simp [Cart.hot, h0, h1]

/-- The reset vector lies in the cartridge window, off the hot spots (R96, R103, R481). -/
theorem busRead16_resetVector (s : State) :
    busRead16 Config.resetVector s = (wordOf (s.cart.read 0xFFD#12) (s.cart.read 0xFFC#12), s) := by
  have lo : busRead Config.resetVector s = (s.cart.read 0xFFC#12, s) :=
    busRead_of_cold (by decide) (Cart.hot_of_ne (by decide) (by decide))
  have hi : busRead (Config.resetVector + 1) s = (s.cart.read 0xFFD#12, s) :=
    busRead_of_cold (by decide) (Cart.hot_of_ne (by decide) (by decide))
  simp only [busRead16, lo, hi]

/-- A reset is its field table and the word read at the reset vector through the reset bank (R481). -/
theorem hardReset_eq (s : State) : hardReset s =
    { resetFields s with
      pc := wordOf ((resetFields s).cart.read 0xFFD#12) ((resetFields s).cart.read 0xFFC#12) } := by
  simp only [hardReset, busRead16_resetVector]

/-- Settles O57: the field tables are the definition of the first four steps; the vector is read off the hot spots. -/
theorem resetLoadsTheTables : Obligations.ResetLoadsTheTables := by
  unfold Obligations.ResetLoadsTheTables
  exact fun s => hardReset_eq s

end Sys2Proof.Machine
end

