-- ==== Sys2Proof/Proofs/Effects.lean ====
section
/-! PROOFS. What ADC, SBC and the branches can do, said once for all their cases. -/

namespace Sys2Proof.Machine

/-- The common shape of ADC and SBC: a sum is written, and only a decimal one can use up a free value (R222, R224). -/
theorem sum_shape (decimal valid : Bool) (r₁ r₂ : Byte) (c₁ c₂ v : Bool) (s : State) : ∃ r c k,
    (if decimal then if valid then setSum r₁ c₁ v s else setFreeSum v s else setSum r₂ c₂ v s) =
      setSum r c v { s with freeCount := k } ∧ (decimal = false → k = s.freeCount) := by
  cases decimal
  · exact ⟨r₂, c₂, s.freeCount, rfl, fun _ => rfl⟩
  · cases valid
    · exact ⟨_, _, s.freeCount + 1, rfl, Bool.noConfusion⟩
    · exact ⟨r₁, c₁, s.freeCount, rfl, fun _ => rfl⟩

/-- ADC writes `A`, the four flags of a sum and, in decimal mode alone, the free-value counter (R221, R222). -/
theorem adc_shape (m : Byte) (s : State) : ∃ r c v k,
    adc m s = setSum r c v { s with freeCount := k } ∧ (s.d = false → k = s.freeCount) :=
  have ⟨r, c, k, h⟩ := sum_shape s.d (isBcd s.a && isBcd m) _ _ _ _ _ s
  ⟨r, c, _, k, h⟩

/-- SBC writes what ADC writes (R223, R224). -/
theorem sbc_shape (m : Byte) (s : State) : ∃ r c v k,
    sbc m s = setSum r c v { s with freeCount := k } ∧ (s.d = false → k = s.freeCount) :=
  have ⟨r, c, k, h⟩ := sum_shape s.d (isBcd s.a && isBcd m) _ _ _ _ _ s
  ⟨r, c, _, k, h⟩

/-- A branch, taken or not, moves `PC` at most and ends with a clock call (R262). -/
theorem branch_shape (taken : Bool) (d : Byte) (s : State) :
    ∃ n p, branch taken d s = .next (busClock n { s with pc := p }) := by
  cases taken
  · exact ⟨2, s.pc, rfl⟩
  · exact ⟨_, branchTarget s.pc d, rfl⟩

end Sys2Proof.Machine
end

