-- ==== Sys2Proof/Proofs/Invariant.lean ====
section
/-! PROOFS. The invariant of a system-step boundary: reset meets it and every step keeps it. -/

namespace Sys2Proof.Machine

/-- The suggested launch parameters are within the ranges of R373 and R483. -/
theorem launchOk_suggested : LaunchOk Launch.suggested := ⟨⟨rfl, rfl⟩, by decide, by decide⟩

/-- Settles O58: memories that list no byte, the reset values of the chips, and the suggested launch. -/
theorem invariantHoldsAtReset : Obligations.InvariantHoldsAtReset := by
  unfold Obligations.InvariantHoldsAtReset
  have timer : IoOk State.reset.io := by unfold IoOk; decide
  exact ⟨⟨⟨rfl, rfl⟩, ⟨rfl, rfl⟩, timer, VideoReset_ok, launchOk_suggested⟩, ⟨rfl, rfl⟩⟩

section
variable {s t : State}

/-- The effect of a read-type instruction writes registers and flags: the chips stay in range. -/
theorem readEffect_ok {q : Mnemonic} {e : Byte → State → State} (he : readEffect q = some e) (m : Byte)
    (h : StateOk s) : StateOk (e m s) := by
  cases q <;> cases he
  case adc =>
    obtain ⟨r, c, v, k, eq, -⟩ := adc_shape m s
    exact eq ▸ h.of_eq rfl rfl rfl rfl rfl
  case sbc =>
    obtain ⟨r, c, v, k, eq, -⟩ := sbc_shape m s
    exact eq ▸ h.of_eq rfl rfl rfl rfl rfl
  all_goals exact h.of_eq rfl rfl rfl rfl rfl

/-- The flags of a read-modify-write instruction: the chips stay in range. -/
theorem modifyEffect_ok {q : Mnemonic} {e : Byte → State → Byte × State} (he : modifyEffect q = some e) (m : Byte)
    (h : StateOk s) : StateOk (e m s).2 := by
  cases q <;> cases he <;> exact h.of_eq rfl rfl rfl rfl rfl

theorem branch_inv {taken : Bool} {d : Byte} (h : StateOk s) (e : branch taken d s = .next t) : Inv t := by
  obtain ⟨n, p, eq⟩ := branch_shape taken d s
  obtain rfl := Host.Outcome.next.inj (eq.symm.trans e)
  exact busClock_inv n (h.of_eq rfl rfl rfl rfl rfl)

theorem accOp_inv {n : Nat} {q : Mnemonic} {f : Byte → State → Byte × State} (hf : modifyEffect q = some f)
    (h : StateOk s) (e : accOp n f s = .next t) : Inv t := by
  refine retire_inv ?_ e
  exact (modifyEffect_ok hf s.a h).of_eq rfl rfl rfl rfl rfl

/-- An instruction with an operand keeps the ranges through its accesses and ends with the clock call (R177). -/
theorem exec_inv_of_operand {i : Instr} {o : Operand} (ho : i.operand = some o) (h : StateOk s)
    (e : exec i s = .next t) : Inv t := by
  rcases operand_kind ho with ⟨f, hf⟩ | ⟨v, hv⟩ | ⟨f, hf⟩
  · obtain rfl := Host.Outcome.next.inj ((exec_read hf ho s).symm.trans e)
    exact busClock_inv _ (readEffect_ok hf _ (readOperand_ok o h))
  · obtain rfl := Host.Outcome.next.inj ((exec_store hv ho s).symm.trans e)
    exact busClock_inv _ (busWrite_ok _ _ h)
  · obtain rfl := Host.Outcome.next.inj ((exec_modify hf ho s).symm.trans e)
    exact busClock_inv _ (busWrite_ok _ _ (modifyEffect_ok hf _ (readOperand_ok o h)))

/-- Every instruction that answers leaves the invariant. An illegal opcode alone clocks nothing (R162): there no access
precedes the halt, so that the strobes and the latch are still as the last clock call left them. -/
theorem exec_inv {i : Instr} (h : Inv s) (e : exec i s = .next t) : Inv t := by
  cases ho : i.operand with
  | some o => exact exec_inv_of_operand ho h.ok e
  | none =>
    cases i with
    | illegal op =>
      obtain rfl := Host.Outcome.next.inj e
      exact ⟨h.ok.of_eq rfl rfl rfl rfl rfl, h.settled⟩
    | bcc | bcs | beq | bmi | bne | bpl | bvc | bvs => exact branch_inv h.ok e
    | aslAcc => exact accOp_inv (q := .asl) rfl h.ok e
    | lsrAcc => exact accOp_inv (q := .lsr) rfl h.ok e
    | rolAcc => exact accOp_inv (q := .rol) rfl h.ok e
    | rorAcc => exact accOp_inv (q := .ror) rfl h.ok e
    | jmpInd a =>
      refine retire_inv ?_ e
      exact (busRead16_ok a h.ok).of_eq rfl rfl rfl rfl rfl
    | jsr =>
      refine retire_inv ?_ e
      exact (pushAddr_ok _ h.ok).of_eq rfl rfl rfl rfl rfl
    | rts =>
      refine retire_inv ?_ e
      exact (pullAddr_ok h.ok).of_eq rfl rfl rfl rfl rfl
    | pha | php => exact retire_inv (push_ok _ h.ok) e
    | pla | plp =>
      refine retire_inv ?_ e
      exact (pull_ok h.ok).of_eq rfl rfl rfl rfl rfl
    | brk => exact retire_inv (takeBreak_ok _ h.ok) e
    | rti => exact retire_inv (returnFromBreak_ok h.ok) e
    | nop => exact retire_inv h.ok e
    | tax | tay | txa | tya | tsx | txs | inx | iny | dex | dey | clc | sec | cli | sei | cld | sed | clv | jmpAbs =>
      refine retire_inv ?_ e
      exact h.ok.of_eq rfl rfl rfl rfl rfl
    | _ => cases ho

theorem fetchInstr_inv (h : Inv s) : Inv (fetchInstr s).2 := ⟨fetchInstr_ok h.ok, by simpa using h.settled⟩

/-- Whatever the host's turn leaves, the system step keeps the invariant of it (R160). -/
theorem systemStep_inv (h : Inv s) (e : systemStep s = .next t) : Inv t := by
  cases hh : s.halted with
  | some p => rw [systemStep_of_halted hh] at e; cases e
  | none =>
    cases hw : s.video.waiting with
    | true =>
      obtain rfl := Host.Outcome.next.inj ((systemStep_of_waiting hh hw).symm.trans e)
      exact busClock_inv 1 h.ok
    | false => exact exec_inv (fetchInstr_inv h) ((systemStep_of_running hh hw).symm.trans e)

end

/-- Settles O59: the host's calls keep the invariant, the fetch keeps it, and every instruction restores it. -/
theorem invariantKeptByEveryStep : Obligations.InvariantKeptByEveryStep := by
  unfold Obligations.InvariantKeptByEveryStep
  exact fun s t h e => systemStep_inv (hostTurn_inv h) e

end Sys2Proof.Machine
end

