-- ==== Sys2Proof/Proofs/RegisterFrame.lean ====
section
/-! PROOFS. Which instructions write which register and flag (R20 to R32), by the shape of the instruction. -/

namespace Sys2Proof.Machine

/-- From `s` to `t` nothing changed but the registers and flags the spec lists for `i`, `PC`, the chips, and what goes with
them: `halted` at an illegal opcode, the free-value counter at a decimal ADC or SBC. -/
def WritesListedOnly (i : Instr) (s t : State) : Prop :=
  (writesA i = false → t.a = s.a) ∧ (writesX i = false → t.x = s.x) ∧ (writesY i = false → t.y = s.y) ∧
  (writesSp i = false → t.sp = s.sp) ∧ (writesC i = false → t.c = s.c) ∧ (writesZ i = false → t.z = s.z) ∧
  (writesN i = false → t.n = s.n) ∧ (writesI i = false → t.i = s.i) ∧ (writesD i = false → t.d = s.d) ∧
  (writesV i = false → t.v = s.v) ∧ (writesB i = false → t.b = s.b) ∧
  (i.mnemonic ≠ .illegal → t.halted = s.halted) ∧ t.launch = s.launch ∧ t.inputs = s.inputs ∧
  ((s.d = false ∨ i.mnemonic ≠ .adc ∧ i.mnemonic ≠ .sbc) → t.freeCount = s.freeCount)

section
variable {i : Instr} {s t : State}

theorem WritesListedOnly.refl (i : Instr) (s : State) : WritesListedOnly i s s :=
  ⟨fun _ => rfl, fun _ => rfl, fun _ => rfl, fun _ => rfl, fun _ => rfl, fun _ => rfl, fun _ => rfl, fun _ => rfl,
    fun _ => rfl, fun _ => rfl, fun _ => rfl, fun _ => rfl, rfl, rfl, fun _ => rfl⟩

/-! Accesses and the clock call are no writes of a register. -/

@[simp] theorem writesListedOnly_busClock (n : Nat) : WritesListedOnly i s (busClock n t) ↔ WritesListedOnly i s t := .rfl

@[simp] theorem writesListedOnly_busWrite (p : Addr) (w : Byte) :
    WritesListedOnly i s (busWrite p w t) ↔ WritesListedOnly i s t := by simp [WritesListedOnly]

@[simp] theorem writesListedOnly_readOperand (o : Operand) :
    WritesListedOnly i (readOperand o s).2 t ↔ WritesListedOnly i s t := by simp [WritesListedOnly]

/-- ADC and SBC write `A`, the four flags of a sum and, in decimal mode, the free-value counter. -/
theorem setSum_writesListedOnly (hq : i.mnemonic = .adc ∨ i.mnemonic = .sbc) {k : Nat}
    (hk : s.d = false → k = s.freeCount) (r : Byte) (c v : Bool) :
    WritesListedOnly i s (setSum r c v { s with freeCount := k }) := by
  rcases hq with hq | hq <;>
    simpa [WritesListedOnly, writesA, writesX, writesY, writesSp, writesC, writesZ, writesN, writesI, writesD, writesV,
      writesB, hq] using hk

/-- The effects of the read-type instructions, by mnemonic. -/
theorem readEffect_writesListedOnly {e : Byte → State → State} (he : readEffect i.mnemonic = some e) (m : Byte)
    (s : State) : WritesListedOnly i s (e m s) := by
  cases hq : i.mnemonic <;> rw [hq] at he <;> cases he
  case adc =>
    obtain ⟨r, c, v, k, eq, hk⟩ := adc_shape m s
    exact eq ▸ setSum_writesListedOnly (.inl hq) hk r c v
  case sbc =>
    obtain ⟨r, c, v, k, eq, hk⟩ := sbc_shape m s
    exact eq ▸ setSum_writesListedOnly (.inr hq) hk r c v
  all_goals
    simp [WritesListedOnly, writesA, writesX, writesY, writesSp, writesC, writesZ, writesN, writesI, writesD, writesV,
      writesB, hq, compareA, compareX, compareY, andA, oraA, eorA]

/-- The flags of the read-modify-write instructions, by mnemonic. -/
theorem modifyEffect_writesListedOnly {e : Byte → State → Byte × State} (he : modifyEffect i.mnemonic = some e)
    (m : Byte) (s : State) : WritesListedOnly i s (e m s).2 := by
  cases hq : i.mnemonic <;> rw [hq] at he <;> cases he
  all_goals
    simp [WritesListedOnly, writesA, writesX, writesY, writesSp, writesC, writesZ, writesN, writesI, writesD, writesV,
      writesB, hq, incByte, decByte, asl, lsr, rol, ror, shifted]

theorem branch_writesListedOnly {taken : Bool} {d : Byte} (i : Instr) (e : branch taken d s = .next t) :
    WritesListedOnly i s t := by
  obtain ⟨n, p, eq⟩ := branch_shape taken d s
  obtain rfl := Host.Outcome.next.inj (eq.symm.trans e)
  exact .refl i s

/-- An instruction with an operand writes registers by its effect alone (R177). -/
theorem exec_writesListedOnly_of_operand {o : Operand} (ho : i.operand = some o) (e : exec i s = .next t) :
    WritesListedOnly i s t := by
  rcases operand_kind ho with ⟨f, hf⟩ | ⟨v, hv⟩ | ⟨f, hf⟩
  · obtain rfl := Host.Outcome.next.inj ((exec_read hf ho s).symm.trans e)
    simpa using readEffect_writesListedOnly hf (readOperand o s).1 (readOperand o s).2
  · obtain rfl := Host.Outcome.next.inj ((exec_store hv ho s).symm.trans e)
    simpa using WritesListedOnly.refl i s
  · obtain rfl := Host.Outcome.next.inj ((exec_modify hf ho s).symm.trans e)
    simpa using modifyEffect_writesListedOnly hf (readOperand o s).1 (readOperand o s).2

/-- An instruction without one: the branches write `PC` alone; of every other the field lemmas of its operations say what
it writes. -/
theorem exec_writesListedOnly_of_no_operand (ho : i.operand = none) (e : exec i s = .next t) :
    WritesListedOnly i s t := by
  cases i with
  | bcc | bcs | beq | bmi | bne | bpl | bvc | bvs => exact branch_writesListedOnly _ e
  | tax | tay | txa | tya | tsx | txs | inx | iny | dex | dey | aslAcc | lsrAcc | rolAcc | rorAcc | jmpAbs | jmpInd | jsr
    | rts | pha | pla | php | plp | clc | sec | cli | sei | cld | sed | clv | nop | brk | rti | illegal =>
    obtain rfl := Host.Outcome.next.inj e
    simp [WritesListedOnly, writesA, writesX, writesY, writesSp, writesC, writesZ, writesN, writesI, writesD, writesV,
      writesB, Instr.mnemonic, Instr.operand, asl, lsr, rol, ror, shifted, takeBreak, returnFromBreak,
      takeIllegalOpcode]
  | _ => cases ho

theorem exec_writesListedOnly (e : exec i s = .next t) : WritesListedOnly i s t := by
  cases ho : i.operand with
  | some o => exact exec_writesListedOnly_of_operand ho e
  | none => exact exec_writesListedOnly_of_no_operand ho e

end

/-- Settles O30: the instructions with an operand by the kind of their access, the others one by one. -/
theorem onlyListedInstructionsWriteEachRegister : Obligations.OnlyListedInstructionsWriteEachRegister := by
  unfold Obligations.OnlyListedInstructionsWriteEachRegister
  exact fun i s t e => exec_writesListedOnly e

end Sys2Proof.Machine
end

