-- ==== Sys2Proof/Proofs/BreakFlag.lean ====
section
/-! PROOFS. The stored `B` is unobservable (R30): every operation commutes with setting it, or overwrites it. -/

namespace Sys2Proof.Machine

/-- `s` with the stored `B` set to `k`. -/
def State.withB (k : Bool) (s : State) : State := { s with b := k }

/-- Of two outcomes: the second answers a state that differs from the first's at most in `B`, or stops with the same
fault. -/
def SameButB (o o' : Host.Outcome State Fault Refusal) : Prop :=
  (∀ t, o = .next t → ∃ k, o' = .next (t.withB k)) ∧ ∀ f, o = .fault f → o' = .fault f

theorem SameButB.next (t : State) (k : Bool) : SameButB (.next t) (.next (t.withB k)) :=
  ⟨fun _ e => ⟨k, by cases e; rfl⟩, fun _ e => by cases e⟩

theorem SameButB.refl (o : Host.Outcome State Fault Refusal) : SameButB o o :=
  ⟨fun t e => ⟨t.b, e⟩, fun _ e => e⟩

section
variable (k : Bool) (s : State)

/-! ### The operations commute with setting `B` -/

@[simp] theorem withB_a : (s.withB k).a = s.a := rfl
@[simp] theorem withB_pc : (s.withB k).pc = s.pc := rfl
@[simp] theorem withB_inputs : (s.withB k).inputs = s.inputs := rfl

@[simp] theorem busValue_withB (p : Addr) : busValue p (s.withB k) = busValue p s := rfl

@[simp] theorem busTouch_withB (p : Addr) : busTouch p (s.withB k) = (busTouch p s).withB k := by
  unfold busTouch; cases target p <;> rfl

@[simp] theorem busWrite_withB (p : Addr) (w : Byte) : busWrite p w (s.withB k) = (busWrite p w s).withB k := by
  unfold busWrite busTouch; cases target p <;> rfl

theorem busRead_withB (p : Addr) : busRead p (s.withB k) = ((busRead p s).1, (busRead p s).2.withB k) := by
  simp only [busRead, busValue_withB, busTouch_withB]

theorem busRead16_withB (p : Addr) : busRead16 p (s.withB k) = ((busRead16 p s).1, (busRead16 p s).2.withB k) := by
  simp only [busRead16, busRead_withB]

@[simp] theorem push_withB (w : Byte) : push w (s.withB k) = (push w s).withB k := by
  simp only [push, busWrite_withB]; rfl

@[simp] theorem pushAddr_withB (w : Addr) : pushAddr w (s.withB k) = (pushAddr w s).withB k := by
  simp only [pushAddr, push_withB]

theorem pull_withB : pull (s.withB k) = ((pull s).1, (pull s).2.withB k) := by
  simp only [pull_eq]; rfl

theorem pullAddr_withB : pullAddr (s.withB k) = ((pullAddr s).1, (pullAddr s).2.withB k) := by
  simp only [pullAddr, pull_withB]

/-- The pushed status byte does not hold the stored `B` (R280). -/
@[simp] theorem statusForPush_withB : statusForPush (s.withB k) = statusForPush s := by
  rw [statusForPush_eq, statusForPush_eq]; rfl

@[simp] theorem busClock_withB (n : Nat) : busClock n (s.withB k) = (busClock n s).withB k := rfl

theorem fetch_withB : fetch (s.withB k) = ((fetch s).1, (fetch s).2.withB k) := by
  simp only [fetch, busRead_withB]; rfl

theorem fetchInstr_withB : fetchInstr (s.withB k) = ((fetchInstr s).1, (fetchInstr s).2.withB k) := by
  simp only [fetchInstr, fetchBytes, fetch_withB]
  split <;> rfl

@[simp] theorem effectiveAddress_withB (o : Operand) : effectiveAddress o (s.withB k) = effectiveAddress o s := by
  cases o <;> rfl

@[simp] theorem readCount_withB (o : Operand) : readCount o (s.withB k) = readCount o s := by cases o <;> rfl

theorem readOperand_withB (o : Operand) :
    readOperand o (s.withB k) = ((readOperand o s).1, (readOperand o s).2.withB k) := by
  cases o with
  | imm => rfl
  | _ => simp only [readOperand, effectiveAddress_withB, busRead_withB]

/-- PLP and RTI load `B` from the status byte: what it held before is lost (R280). -/
theorem loadStatus_withB (w : Byte) : loadStatus w (s.withB k) = loadStatus w s := rfl

/-- BRK sets `B` before it reads any flag (R293): what it held before is lost. -/
theorem takeBreak_withB (ret : Addr) : takeBreak ret (s.withB k) = takeBreak ret s := rfl

/-- RTI loads `B` from the pulled status byte (R294): what it held before is lost. -/
theorem returnFromBreak_withB : returnFromBreak (s.withB k) = returnFromBreak s := by
  simp only [returnFromBreak, pull_withB, loadStatus_withB]

theorem sum_withB (decimal valid : Bool) (r₁ r₂ : Byte) (c₁ c₂ v : Bool) :
    (if decimal then if valid then setSum r₁ c₁ v (s.withB k) else setFreeSum v (s.withB k)
      else setSum r₂ c₂ v (s.withB k)) =
    (if decimal then if valid then setSum r₁ c₁ v s else setFreeSum v s else setSum r₂ c₂ v s).withB k := by
  cases decimal <;> cases valid <;> rfl

theorem readEffect_withB {q : Mnemonic} {e : Byte → State → State} (he : readEffect q = some e) (m : Byte) :
    e m (s.withB k) = (e m s).withB k := by
  cases q <;> cases he
  case adc => exact sum_withB k s s.d (isBcd s.a && isBcd m) _ _ _ _ _
  case sbc => exact sum_withB k s s.d (isBcd s.a && isBcd m) _ _ _ _ _
  all_goals rfl

theorem storeValue_withB {q : Mnemonic} {v : State → Byte} (hv : storeValue q = some v) : v (s.withB k) = v s := by
  cases q <;> cases hv <;> rfl

theorem modifyEffect_withB {q : Mnemonic} {e : Byte → State → Byte × State} (he : modifyEffect q = some e) (m : Byte) :
    e m (s.withB k) = ((e m s).1, (e m s).2.withB k) := by
  cases q <;> cases he <;> rfl

/-- A read reads the same in both states; what it leaves differs in `B` alone, and the effect and the write keep that. -/
theorem exec_sameButB_of_operand {i : Instr} {o : Operand} (ho : i.operand = some o) :
    SameButB (exec i s) (exec i (s.withB k)) := by
  rcases operand_kind ho with ⟨f, hf⟩ | ⟨v, hv⟩ | ⟨f, hf⟩
  · simp only [exec_read hf ho, readOperand_withB, readEffect_withB k _ hf, readCount_withB]
    exact .next _ k
  · simp only [exec_store hv ho, storeValue_withB k s hv, effectiveAddress_withB, busWrite_withB]
    exact .next _ k
  · simp only [exec_modify hf ho, readOperand_withB, modifyEffect_withB k _ hf, effectiveAddress_withB, busWrite_withB]
    exact .next _ k

theorem branch_sameButB (taken : Bool) (d : Byte) : SameButB (branch taken d s) (branch taken d (s.withB k)) := by
  cases taken <;> exact .next _ k

/-- No instruction shows the stored `B`: PLP, BRK and RTI overwrite it, every other leaves it where it was. -/
theorem exec_sameButB (i : Instr) : SameButB (exec i s) (exec i (s.withB k)) := by
  cases ho : i.operand with
  | some o => exact exec_sameButB_of_operand k s ho
  | none =>
    cases i with
    | bcc | bcs | beq | bmi | bne | bpl | bvc | bvs => exact branch_sameButB k s _ _
    | jmpInd => simp only [exec, execJmpInd, busRead16_withB]; exact .next _ k
    | jsr => simp only [exec, execJsr, withB_pc, pushAddr_withB]; exact .next _ k
    | rts => simp only [exec, execRts, pullAddr_withB]; exact .next _ k
    | pha => simp only [exec, execPha, withB_a, push_withB]; exact .next _ k
    | php => simp only [exec, execPhp, statusForPush_withB, push_withB]; exact .next _ k
    | pla => simp only [exec, execPla, pull_withB]; exact .next _ k
    | plp => simp only [exec, execPlp, pull_withB, loadStatus_withB]; exact .refl _
    | brk => simp only [exec, execBrk, withB_pc, takeBreak_withB]; exact .refl _
    | rti => simp only [exec, execRti, returnFromBreak_withB]; exact .refl _
    | aslAcc | lsrAcc | rolAcc | rorAcc | tax | tay | txa | tya | tsx | txs | inx | iny | dex | dey | clc | sec | cli | sei
      | cld | sed | clv | jmpAbs | nop | illegal => exact .next _ k
    | _ => cases ho

/-- A reset loads `B` from the launch parameters (R481). -/
theorem hardReset_withB : hardReset (s.withB k) = hardReset s := rfl

/-- An input call leaves `B` alone, and a reset loads it from the launch parameters (R432, R481). -/
theorem hostCall_withB (h : HostCall) : ∃ k', hostCall h (s.withB k) = (hostCall h s).withB k' := by
  cases h with
  | reset => exact ⟨(hardReset s).b, hardReset_withB k s⟩
  | setFire | setLine | setJoystick | setSwitch => exact ⟨k, rfl⟩

end

theorem hostCalls_withB (hs : List HostCall) (k : Bool) (s : State) :
    ∃ k', hostCalls hs (s.withB k) = (hostCalls hs s).withB k' := by
  induction hs generalizing k s with
  | nil => exact ⟨k, rfl⟩
  | cons h hs ih =>
    obtain ⟨k₁, h₁⟩ := hostCall_withB k s h
    simp only [hostCalls, h₁]
    exact ih k₁ (hostCall h s)

theorem hostTurn_withB (k : Bool) (s : State) : ∃ k', hostTurn (s.withB k) = (hostTurn s).withB k' := by
  simp only [hostTurn, withB_inputs]
  split
  case h_1 => exact ⟨k, rfl⟩
  case h_2 calls rest _ => exact hostCalls_withB calls k { s with inputs := rest }

/-- The system step asks for `halted` and `waiting`, never for `B` (R160). -/
theorem systemStep_sameButB (k : Bool) (s : State) : SameButB (systemStep s) (systemStep (s.withB k)) := by
  cases hh : s.halted with
  | some p => rw [systemStep_of_halted hh, systemStep_of_halted (s := s.withB k) hh]; exact .refl _
  | none =>
    cases hw : s.video.waiting with
    | true => rw [systemStep_of_waiting hh hw, systemStep_of_waiting (s := s.withB k) hh hw]; exact .next _ k
    | false =>
      rw [systemStep_of_running hh hw, systemStep_of_running (s := s.withB k) hh hw, fetchInstr_withB]
      exact exec_sameButB k _ _

/-- Settles O60: the host's turn and the system step after it both carry a difference in `B` to nothing but `B`. -/
theorem breakFlagIsUnobservable : Obligations.BreakFlagIsUnobservable := by
  unfold Obligations.BreakFlagIsUnobservable
  intro s k
  obtain ⟨k', h⟩ := hostTurn_withB k s
  have same : SameButB (step s) (step (s.withB k)) := by
    simp only [step, h]
    exact systemStep_sameButB k' (hostTurn s)
  exact same

end Sys2Proof.Machine
end

