-- ==== Sys2Proof/Proofs/AddressMap.lean ====
section
/-! PROOFS. The address map (R87 to R94) and what a bus access does at each kind of target. -/

namespace Sys2Proof.Machine

/-! ### Zero page and stack page (R94) -/

/-- A stack address is page 1 with `SP` in its low byte: the sum carries nowhere (R23). -/
theorem stackAddr_eq_or (sp : Byte) : stackAddr sp = 0x0100#16 ||| zeroPage sp :=
  BitVec.add_eq_or_of_and_eq_zero _ _ (by revert sp; decide +kernel)

theorem getLsbD_seven (z : Byte) : z.getLsbD 7 = decide (0x80 ≤ z.toNat) := by
  rw [← BitVec.msb_eq_decide z, BitVec.msb_eq_getLsbD_last]

/-- Page 0 holds the RAM cells in its upper half and the video registers in its lower (R92). -/
theorem target_zeroPage (z : Byte) :
    target (zeroPage z) = if 0x80 ≤ z.toNat then .ram (z.setWidth 7) else .video (z.setWidth 6) := by
  have low (n : Nat) (hn : n ≤ 16) : (zeroPage z).extractLsb' 0 n = z.setWidth n := by
    rw [← BitVec.setWidth_eq_extractLsb' hn, zeroPage, BitVec.setWidth_setWidth_of_le _ hn]
  have high (k : Nat) (hk : 8 ≤ k) : (zeroPage z).getLsbD k = false := by simp [zeroPage, hk]
  have bit7 : (zeroPage z).getLsbD 7 = decide (0x80 ≤ z.toNat) := by simp [zeroPage, ← getLsbD_seven]
  simp only [target, low 7 (by decide), low 6 (by decide), high 12 (by decide), high 9 (by decide), bit7]
  by_cases h : 0x80 ≤ z.toNat <;> simp [h]

/-- Bit 8 is not decoded: a stack address reaches what the zero-page address of the same low byte reaches (R94). -/
theorem target_stackAddr (sp : Byte) : target (stackAddr sp) = target (zeroPage sp) := by
  have low7 : (stackAddr sp).extractLsb' 0 7 = (zeroPage sp).extractLsb' 0 7 := by
    rw [stackAddr_eq_or, BitVec.extractLsb'_or]; simp
  have low6 : (stackAddr sp).extractLsb' 0 6 = (zeroPage sp).extractLsb' 0 6 := by
    rw [stackAddr_eq_or, BitVec.extractLsb'_or]; simp
  simp only [target, low7, low6]
  simp [stackAddr_eq_or, zeroPage]

/-- The stack cells of page 1 by name (R94): a push below 0x80 writes a video register. -/
theorem target_stackAddr_of_ram {sp : Byte} (h : 0x80 ≤ sp.toNat) : target (stackAddr sp) = .ram (sp.setWidth 7) := by
  rw [target_stackAddr, target_zeroPage, if_pos h]

/-- The RAM cell a byte of the upper half names is its low seven bits. -/
theorem target_zeroPage_cell (k : BitVec 7) : target (zeroPage (0x80#8 + k.setWidth 8)) = .ram k := by
  have hk := k.isLt
  have value : (0x80#8 + k.setWidth 8).toNat = 0x80 + k.toNat := by
    rw [BitVec.toNat_add, BitVec.toNat_setWidth]
    exact (by omega : (128 + k.toNat % 256) % 256 = 128 + k.toNat)
  have low : (0x80#8 + k.setWidth 8).setWidth 7 = k :=
    BitVec.eq_of_toNat_eq (by rw [BitVec.toNat_setWidth, value]; omega)
  rw [target_zeroPage, if_pos (by omega), low]

/-- Settles O36: the four ranges are the decode's branches; every name of a shared cell is its zero-page name. -/
theorem addressDecodeMap : Obligations.AddressDecodeMap := by
  unfold Obligations.AddressDecodeMap
  refine ⟨fun p => ⟨target_cart, target_video, fun h12 h9 h7 => target_ram h12 h7 h9,
    fun h12 h9 h7 => target_io h12 h7 h9⟩, fun k => ?cells⟩
  case cells =>
    have zero : 0x0080#16 + k.setWidth 16 = zeroPage (0x80#8 + k.setWidth 8) := by unfold zeroPage; bv_omega
    have stack : 0x0180#16 + k.setWidth 16 = stackAddr (0x80#8 + k.setWidth 8) := by
      unfold stackAddr Config.stackPage; bv_omega
    simp only [zero, stack, target_stackAddr, target_zeroPage_cell, and_self]

/-! ### The bus by target (R82, R83) -/

section
variable {p : Addr}

/-- An address of a RAM cell reads the RAM alone (R93). -/
theorem busValue_of_ram {k : BitVec 7} (h : target p = .ram k) (s : State) : busValue p s = s.ram.read k.toNat := by
  simp only [busValue, h]

theorem busWrite_of_ram {k : BitVec 7} (h : target p = .ram k) (w : Byte) (s : State) :
    busWrite p w s = { s with ram := s.ram.write k.toNat w } := by simp only [busWrite, h]

/-- A bus write at a video address is the write of its register (R83, R310). -/
theorem busWrite_of_video {r : BitVec 6} (h : target p = .video r) (w : Byte) (s : State) :
    busWrite p w s = { s with video := videoWrite r w s.video } := by simp only [busWrite, h]

/-- A write into the cartridge window is the access alone (R83, R103). -/
theorem busWrite_of_cart {off : BitVec 12} (h : target p = .cart off) (w : Byte) (s : State) :
    busWrite p w s = busTouch p s := by simp only [busWrite, h]

/-- Every cell after a bus write: the byte written in the cell the address reaches, the others as before (R93). -/
theorem read_writeRam {m : Memory} (hm : m.wf = true) (p : Addr) (w : Byte) (k : BitVec 7) :
    (writeRam p w m).read k.toNat = if target p = .ram k then w else m.read k.toNat := by
  unfold writeRam
  cases target p with
  | ram j => simp only [Memory.read_write hm, ← BitVec.toNat_inj, Target.ram.injEq, eq_comm]
  | _ => simp

theorem wf_writeRam {m : Memory} (hm : m.wf = true) (p : Addr) (w : Byte) : (writeRam p w m).wf = true := by
  unfold writeRam
  cases target p with
  | ram j => exact Memory.wf_write hm _ _
  | _ => exact hm

end

/-- Settles O38: a write to a RAM cell reads back at every address of the cell, and a read off the hot spots touches
nothing. -/
theorem ramReadAfterWrite : Obligations.RamReadAfterWrite := by
  unfold Obligations.RamReadAfterWrite
  refine ⟨fun p q w k s hs hp => ⟨?value, ?frame⟩, fun p s cold => ?read⟩
  case value =>
    cases hq : target q with
    | ram j =>
      rw [busValue_of_ram hq, busValue_of_ram hq, busWrite_ram, read_writeRam hs.1, hp]
      simp only [Target.ram.injEq, eq_comm]
    | _ => simp [busValue, hq, busWrite_of_ram hp]
  case frame => simp only [busWrite_of_ram hp]
  case read => rw [busRead_eq, busTouch_of_cold cold]

end Sys2Proof.Machine
end

