-- ==== Sys2Proof/Proofs/Cartridge.lean ====
section
/-! PROOFS. The cartridge window: what an access returns and selects, for each size of image (R101 to R105). -/

namespace Sys2Proof.Machine

/-- `s` with the bank bit `k`. -/
def State.withBank (k : Bool) (s : State) : State := { s with cart := { s.cart with bank := k } }

section
variable {p : Addr} {off : BitVec 12} {s : State}

/-- A read at a hot spot returns 0 and selects the bank the address names (R103, R104). -/
theorem busRead_of_hot (ht : target p = .cart off) (hh : s.cart.hot off = true) :
    busRead p s = (0, s.withBank (off == Config.hotSpot1)) := by
  simp only [busRead, busValue, busTouch, ht, Cart.select, hh, if_true, State.withBank]

/-- A write at a hot spot selects the bank, whatever the byte (R103). -/
theorem busWrite_of_hot (ht : target p = .cart off) (hh : s.cart.hot off = true) (w : Byte) :
    busWrite p w s = s.withBank (off == Config.hotSpot1) := by
  rw [busWrite_of_cart ht]
  exact congrArg Prod.snd (busRead_of_hot ht hh)

/-- A write anywhere else in the window is ignored (R102). -/
theorem busWrite_of_cold (ht : target p = .cart off) (hc : s.cart.hot off = false) (w : Byte) :
    busWrite p w s = s := by
  rw [busWrite_of_cart ht]
  exact congrArg Prod.snd (busRead_of_cold ht hc)

/-- Only an 8 KB image has hot spots (R103). -/
theorem Cart.hot_of_size_ne {c : Cart} (h : c.size ≠ .kb8) (off : BitVec 12) : c.hot off = false := by
  simp [Cart.hot, h]

theorem Cart.hot_hotSpot0 {c : Cart} (h : c.size = .kb8) : c.hot Config.hotSpot0 = true := by simp [Cart.hot, h]

theorem Cart.hot_hotSpot1 {c : Cart} (h : c.size = .kb8) : c.hot Config.hotSpot1 = true := by simp [Cart.hot, h]

/-- The index rule of an 8 KB image: the active bank, then the offset (R101). -/
theorem Cart.index_kb8 {c : Cart} (h : c.size = .kb8) (off : BitVec 12) :
    c.index off = c.bank.toNat * 4096 + off.toNat := by
  simp only [Cart.index, h]; cases c.bank <;> rfl

theorem Cart.index_kb4 {c : Cart} (h : c.size = .kb4) (off : BitVec 12) : c.index off = off.toNat := by
  simp only [Cart.index, h]

theorem Cart.index_kb2 {c : Cart} (h : c.size = .kb2) (off : BitVec 12) : c.index off = off.toNat % 2048 := by
  simp only [Cart.index, h]

/-- Off the hot spots: a read returns the byte at the image index and a write is ignored, and neither selects a bank
(R101, R102). -/
theorem cold_access {n : Nat} (ht : target p = .cart off) (hc : s.cart.hot off = false) (hn : s.cart.index off = n)
    (w : Byte) : busRead p s = (s.cart.image.read n, s) ∧ busWrite p w s = s := by
  rw [busRead_of_cold ht hc, Cart.read, hn]
  exact ⟨rfl, busWrite_of_cold ht hc w⟩

/-- Selecting the bank that is active changes nothing (R105). -/
theorem State.withBank_self {k : Bool} (h : s.cart.bank = k) : s.withBank k = s := by
  subst h; rfl

/-- The later selection decides (R105). -/
theorem State.withBank_withBank (j k : Bool) (s : State) : (s.withBank j).withBank k = s.withBank k := rfl

end

/-- Settles O37: a window access is at one of the two hot spots of an 8 KB image or at none. -/
theorem cartridgeWindowAndHotSpots : Obligations.CartridgeWindowAndHotSpots := by
  unfold Obligations.CartridgeWindowAndHotSpots
  refine ⟨fun p w s hp => ?window, fun p q w w' s size hp hq => ?switches⟩
  case window =>
    have ht : target p = .cart (p.extractLsb' 0 12) := target_cart hp
    refine ⟨fun size off => ?hot0, fun size off => ?hot1, fun size ne0 ne1 => ?kb8, fun size => ?kb4, fun size => ?kb2⟩
    case hot0 =>
      have spot : p.extractLsb' 0 12 = Config.hotSpot0 := BitVec.eq_of_toNat_eq off
      rw [spot] at ht
      exact ⟨busRead_of_hot ht (Cart.hot_hotSpot0 size), busWrite_of_hot ht (Cart.hot_hotSpot0 size) w⟩
    case hot1 =>
      have spot : p.extractLsb' 0 12 = Config.hotSpot1 := BitVec.eq_of_toNat_eq off
      rw [spot] at ht
      exact ⟨busRead_of_hot ht (Cart.hot_hotSpot1 size), busWrite_of_hot ht (Cart.hot_hotSpot1 size) w⟩
    case kb8 =>
      have cold : s.cart.hot (p.extractLsb' 0 12) = false :=
        Cart.hot_of_ne (fun e => ne0 (congrArg BitVec.toNat e)) (fun e => ne1 (congrArg BitVec.toNat e))
      exact cold_access ht cold (Cart.index_kb8 size _) w
    case kb4 => exact cold_access ht (Cart.hot_of_size_ne (by simp [size]) _) (Cart.index_kb4 size _) w
    case kb2 => exact cold_access ht (Cart.hot_of_size_ne (by simp [size]) _) (Cart.index_kb2 size _) w
  case switches =>
    have select0 (w : Byte) {u : State} (hu : u.cart.size = .kb8) : busWrite p w u = u.withBank false :=
      busWrite_of_hot hp (Cart.hot_hotSpot0 hu) w
    have select1 (w : Byte) {u : State} (hu : u.cart.size = .kb8) : busWrite q w u = u.withBank true :=
      busWrite_of_hot hq (Cart.hot_hotSpot1 hu) w
    have keeps (k : Bool) : (s.withBank k).cart.size = .kb8 := size
    simp only [select0 _ size, select1 _ size, select0 _ (keeps _), select1 _ (keeps _), State.withBank_withBank,
      true_and]
    exact ⟨State.withBank_self, State.withBank_self⟩

end Sys2Proof.Machine
end

