-- ==== Sys2Proof/Proofs/MemoryFrames.lean ====
section
/-! PROOFS. What an instruction that pushes nothing does to RAM, cartridge store and chips before its clock call: nothing but
a bank select, or one write at its effective address (R177). -/

namespace Sys2Proof.Machine

/-! ### The kinds of instruction -/

/-- Every instruction stores nothing, stores at the address of its operand, or pushes (R177). -/
theorem store_kind (i : Instr) :
    storesNothing i = true ∨ (storesOperand i = true ∧ ∃ o, i.operand = some o) ∨ 0 < pushCount i := by
  cases i with
  | staZp | staZpX | staAbs | staAbsX | staAbsY | staIndX | staIndY | stxZp | stxZpY | stxAbs | styZp | styZpX | styAbs
    | incZp | incZpX | incAbs | incAbsX | decZp | decZpX | decAbs | decAbsX | aslZp | aslZpX | aslAbs | aslAbsX
    | lsrZp | lsrZpX | lsrAbs | lsrAbsX | rolZp | rolZpX | rolAbs | rolAbsX | rorZp | rorZpX | rorAbs | rorAbsX =>
    exact .inr (.inl ⟨rfl, _, rfl⟩)
  | pha | php | jsr | brk => exact .inr (.inr (by simp [pushCount, Instr.mnemonic]))
  | _ => exact .inl rfl

section
variable {i : Instr} {o : Operand}

/-- No store has the immediate mode, so its count is one of the table's (R138). -/
theorem storeCycles_bounds {v : State → Byte} (hv : storeValue i.mnemonic = some v) (ho : i.operand = some o) :
    3 ≤ storeCycles o ∧ storeCycles o ≤ 7 := by
  cases i with
  | staZp | staZpX | staAbs | staAbsX | staAbsY | staIndX | staIndY | stxZp | stxZpY | stxAbs | styZp | styZpX | styAbs =>
    cases ho; simp [storeCycles]
  | _ => cases hv

/-- A read-modify-write instruction has one of four modes, or works on the accumulator (R138). -/
theorem modifyCycles_bounds {e : Byte → State → Byte × State} (he : modifyEffect i.mnemonic = some e)
    (ho : i.operand = some o) : 3 ≤ modifyCycles o ∧ modifyCycles o ≤ 7 := by
  cases i with
  | incZp | incZpX | incAbs | incAbsX | decZp | decZpX | decAbs | decAbsX | aslZp | aslZpX | aslAbs | aslAbsX
    | lsrZp | lsrZpX | lsrAbs | lsrAbsX | rolZp | rolZpX | rolAbs | rolAbsX | rorZp | rorZpX | rorAbs | rorAbsX =>
    cases ho; simp [modifyCycles]
  | aslAcc | lsrAcc | rolAcc | rorAcc => cases ho
  | _ => cases he

theorem readCount_bounds (o : Operand) (s : State) : 2 ≤ readCount o s ∧ readCount o s ≤ 7 := by
  have base : 2 ≤ readCycles o ∧ readCycles o ≤ 6 := by cases o <;> simp [readCycles]
  unfold readCount
  split <;> omega

theorem storesNothing_of_store {v : State → Byte} (hv : storeValue i.mnemonic = some v) : storesNothing i = false := by
  unfold storesNothing
  cases hq : i.mnemonic <;> simp [hq, storeValue] at hv ⊢

theorem storesNothing_of_modify {e : Byte → State → Byte × State} (he : modifyEffect i.mnemonic = some e)
    (ho : i.operand = some o) : storesNothing i = false := by
  unfold storesNothing
  cases hq : i.mnemonic <;> simp [hq, ho, modifyEffect] at he ⊢

theorem storesOperand_of_read {e : Byte → State → State} (he : readEffect i.mnemonic = some e) :
    storesOperand i = false := by
  unfold storesOperand
  cases hq : i.mnemonic <;> simp [hq, readEffect] at he ⊢

end

/-! ### What an access leaves -/

/-- From `s` to `t` RAM, image and chips are the same: only registers, flags and the bank may differ. -/
structure KeepsMemory (s t : State) : Prop where
  ram : t.ram = s.ram
  image : t.cart.image = s.cart.image
  size : t.cart.size = s.cart.size
  video : t.video = s.video
  io : t.io = s.io
  launch : t.launch = s.launch

@[simp] theorem touchCart_image_size (p : Addr) (c : Cart) :
    (touchCart p c).image = c.image ∧ (touchCart p c).size = c.size := by
  unfold touchCart
  split
  · unfold Cart.select; split <;> exact ⟨rfl, rfl⟩
  · exact ⟨rfl, rfl⟩

theorem touchCart_of_not_cart {p : Addr} (h : ∀ off, target p ≠ .cart off) (c : Cart) : touchCart p c = c := by
  unfold touchCart
  cases hp : target p with
  | cart off => exact absurd hp (h off)
  | _ => rfl

theorem writeRam_of_not_ram {p : Addr} (h : ∀ k, target p ≠ .ram k) (w : Byte) (m : Memory) : writeRam p w m = m := by
  unfold writeRam
  cases hp : target p with
  | ram k => exact absurd hp (h k)
  | _ => rfl

theorem writeVideo_of_not_video {p : Addr} (h : ∀ r, target p ≠ .video r) (w : Byte) (u : Video) :
    writeVideo p w u = u := by
  unfold writeVideo
  cases hp : target p with
  | video r => exact absurd hp (h r)
  | _ => rfl

theorem writeIo_of_not_io {p : Addr} (h : ∀ r, target p ≠ .io r) (w : Byte) (t : Io) : writeIo p w t = t := by
  unfold writeIo
  cases hp : target p with
  | io r => exact absurd hp (h r)
  | _ => rfl

section
variable {s t u : State}

theorem KeepsMemory.refl (s : State) : KeepsMemory s s := ⟨rfl, rfl, rfl, rfl, rfl, rfl⟩

theorem KeepsMemory.trans (h : KeepsMemory s t) (h' : KeepsMemory t u) : KeepsMemory s u :=
  ⟨h'.ram.trans h.ram, h'.image.trans h.image, h'.size.trans h.size, h'.video.trans h.video, h'.io.trans h.io,
    h'.launch.trans h.launch⟩

/-- `KeepsMemory` reads only the chips and the launch parameters. -/
theorem KeepsMemory.of_eq (h : KeepsMemory s t) (h1 : u.ram = t.ram) (h2 : u.cart = t.cart) (h3 : u.io = t.io)
    (h4 : u.video = t.video) (h5 : u.launch = t.launch) : KeepsMemory s u :=
  h.trans ⟨h1, congrArg Cart.image h2, congrArg Cart.size h2, h4, h3, h5⟩

theorem busTouch_keepsMemory (p : Addr) (s : State) : KeepsMemory s (busTouch p s) :=
  ⟨by simp, by simp, by simp, by simp, by simp, by simp⟩

theorem busRead16_keepsMemory (p : Addr) (s : State) : KeepsMemory s (busRead16 p s).2 :=
  (busTouch_keepsMemory p s).trans (busTouch_keepsMemory (p + 1) _)

theorem pull_keepsMemory (s : State) : KeepsMemory s (pull s).2 := by
  rw [pull_eq]; exact (KeepsMemory.refl s).of_eq rfl rfl rfl rfl rfl

theorem pullAddr_keepsMemory (s : State) : KeepsMemory s (pullAddr s).2 :=
  (pull_keepsMemory s).trans (pull_keepsMemory _)

/-- A read of the operand reads its bytes through the bus: it can select a bank, no more (R109). -/
theorem readOperand_keepsMemory (o : Operand) (s : State) : KeepsMemory s (readOperand o s).2 := by
  cases o with
  | imm => exact .refl s
  | _ => exact busTouch_keepsMemory _ s

theorem readOperand_cart_of_not_cart {o : Operand} (h : ∀ off, target (effectiveAddress o s) ≠ .cart off) :
    (readOperand o s).2.cart = s.cart := by
  cases o with
  | imm => rfl
  | _ => exact (busTouch_cart_eq _ s).trans (touchCart_of_not_cart h s.cart)

/-- The effect of a read-type instruction writes registers and flags. -/
theorem readEffect_keepsMemory {q : Mnemonic} {e : Byte → State → State} (he : readEffect q = some e) (m : Byte)
    (s : State) : KeepsMemory s (e m s) := by
  cases q <;> cases he
  case adc =>
    obtain ⟨r, c, v, k, eq, -⟩ := adc_shape m s
    exact eq ▸ (KeepsMemory.refl s).of_eq rfl rfl rfl rfl rfl
  case sbc =>
    obtain ⟨r, c, v, k, eq, -⟩ := sbc_shape m s
    exact eq ▸ (KeepsMemory.refl s).of_eq rfl rfl rfl rfl rfl
  all_goals exact (KeepsMemory.refl s).of_eq rfl rfl rfl rfl rfl

/-- A read-modify-write instruction computes its result and its flags. -/
theorem modifyEffect_chips {q : Mnemonic} {e : Byte → State → Byte × State} (he : modifyEffect q = some e) (m : Byte)
    (s : State) : KeepsMemory s (e m s).2 ∧ (e m s).2.cart = s.cart := by
  cases q <;> cases he <;> exact ⟨(KeepsMemory.refl s).of_eq rfl rfl rfl rfl rfl, rfl⟩

/-! ### Instructions that store nothing -/

/-- The answer `r` is one clock call of 2 to 7 cycles in a state that differs from `s` in registers, flags and bank. -/
def ClocksOnly (s : State) (r : Host.Outcome State Fault Refusal) : Prop :=
  ∃ n u, 2 ≤ n ∧ n ≤ 7 ∧ KeepsMemory s u ∧ r = .next (busClock n u)

theorem retire_clocksOnly {n : Nat} (h : KeepsMemory s u) (lo : 2 ≤ n := by decide) (hi : n ≤ 7 := by decide) :
    ClocksOnly s (retire n u) := ⟨n, u, lo, hi, h, rfl⟩

theorem branch_clocksOnly (taken : Bool) (d : Byte) (s : State) : ClocksOnly s (branch taken d s) := by
  cases taken with
  | false => exact retire_clocksOnly (.refl s)
  | true =>
    refine retire_clocksOnly (n := if crosses (branchTarget s.pc d) s.pc then 4 else 3) ?_ ?_ ?_
    · exact (KeepsMemory.refl s).of_eq rfl rfl rfl rfl rfl
    · split <;> decide
    · split <;> decide

theorem returnFromBreak_keepsMemory (s : State) : KeepsMemory s (returnFromBreak s) := by
  have status : KeepsMemory s (loadStatus (pull s).1 (pull s).2) := (pull_keepsMemory s).of_eq rfl rfl rfl rfl rfl
  exact (status.trans (pullAddr_keepsMemory _)).of_eq rfl rfl rfl rfl rfl

theorem exec_clocksOnly {i : Instr} (h : storesNothing i = true) (hq : i.mnemonic ≠ .illegal) (s : State) :
    ClocksOnly s (exec i s) := by
  cases ho : i.operand with
  | some o =>
    rcases operand_kind ho with ⟨e, he⟩ | ⟨v, hv⟩ | ⟨e, he⟩
    · rw [exec_read he ho]
      have ⟨lo, hi⟩ := readCount_bounds o s
      exact ⟨_, _, lo, hi, (readOperand_keepsMemory o s).trans (readEffect_keepsMemory he _ _), rfl⟩
    · rw [storesNothing_of_store hv] at h; cases h
    · rw [storesNothing_of_modify he ho] at h; cases h
  | none =>
    cases i with
    | bcc | bcs | beq | bmi | bne | bpl | bvc | bvs => exact branch_clocksOnly _ _ s
    | jmpInd a => exact retire_clocksOnly ((busRead16_keepsMemory a s).of_eq rfl rfl rfl rfl rfl)
    | rts => exact retire_clocksOnly ((pullAddr_keepsMemory s).of_eq rfl rfl rfl rfl rfl)
    | pla | plp => exact retire_clocksOnly ((pull_keepsMemory s).of_eq rfl rfl rfl rfl rfl)
    | rti => exact retire_clocksOnly (returnFromBreak_keepsMemory s)
    | aslAcc | lsrAcc | rolAcc | rorAcc | tax | tay | txa | tya | tsx | txs | inx | iny | dex | dey | clc | sec | cli | sei
      | cld | sed | clv | jmpAbs | nop =>
      exact retire_clocksOnly ((KeepsMemory.refl s).of_eq rfl rfl rfl rfl rfl)
    | illegal => exact absurd rfl hq
    | pha | php | jsr | brk => cases h
    | _ => cases ho

/-- An illegal opcode halts and does nothing else (R162). -/
theorem exec_of_illegal {i : Instr} (hq : i.mnemonic = .illegal) (s : State) :
    ∃ op, exec i s = .next (takeIllegalOpcode op (s.pc - 1) s) := by
  cases i with
  | illegal op => exact ⟨op, rfl⟩
  | _ => cases hq

end

/-- Settles O31: an instruction that stores nothing answers one clock call of a state with the same memory, or halts. -/
theorem instructionsThatStoreNothingKeepMemory : Obligations.InstructionsThatStoreNothingKeepMemory := by
  unfold Obligations.InstructionsThatStoreNothingKeepMemory
  intro i s t hi e
  have reads (ht : t.ram = s.ram) (p : Addr) (k : BitVec 7) (hp : target p = .ram k) : busValue p t = busValue p s := by
    rw [busValue_of_ram hp, busValue_of_ram hp, ht]
  by_cases hq : i.mnemonic = .illegal
  · obtain ⟨op, eq⟩ := exec_of_illegal hq s
    obtain rfl := Host.Outcome.next.inj (eq.symm.trans e)
    exact ⟨reads rfl, rfl, rfl, rfl, fun ne => absurd hq ne, fun _ => ⟨rfl, rfl⟩⟩
  · obtain ⟨n, u, lo, hn, ⟨ram, image, size, video, io, launch⟩, eq⟩ := exec_clocksOnly hi hq s
    obtain rfl := Host.Outcome.next.inj (eq.symm.trans e)
    refine ⟨reads ram, ram, image, size, fun _ => ⟨n, lo, hn, ?_, ?_⟩, fun e => absurd e hq⟩
    · rw [busClock_video, video, launch]
    · rw [busClock_io, io]

/-! ### Stores and read-modify-write instructions -/

/-- One write at the effective address, from a state in which at most the bank of that same address is selected (R177). -/
theorem exec_storesOperand {i : Instr} {o : Operand} (hs : storesOperand i = true) (ho : i.operand = some o)
    (s : State) : ∃ n w u, 3 ≤ n ∧ n ≤ 7 ∧ exec i s = .next (busClock n (busWrite (effectiveAddress o s) w u)) ∧
      KeepsMemory s u ∧ ((∀ off, target (effectiveAddress o s) ≠ .cart off) → u.cart = s.cart) := by
  rcases operand_kind ho with ⟨e, he⟩ | ⟨v, hv⟩ | ⟨e, he⟩
  · rw [storesOperand_of_read he] at hs; cases hs
  · have ⟨lo, hi⟩ := storeCycles_bounds hv ho
    exact ⟨_, _, s, lo, hi, exec_store hv ho s, .refl s, fun _ => rfl⟩
  · have ⟨lo, hi⟩ := modifyCycles_bounds he ho
    have ⟨keeps, cart⟩ := modifyEffect_chips he (readOperand o s).1 (readOperand o s).2
    exact ⟨_, _, _, lo, hi, exec_modify he ho s, (readOperand_keepsMemory o s).trans keeps,
      fun h => cart.trans (readOperand_cart_of_not_cart h)⟩

/-- Settles O32: the one write reaches one chip, and in the RAM one cell. -/
theorem storesKeepOtherMemory : Obligations.StoresKeepOtherMemory := by
  unfold Obligations.StoresKeepOtherMemory
  intro i o s t hram hs ho e
  obtain ⟨n, w, u, lo, hi, eq, ⟨ram, image, size, video, io, launch⟩, cart⟩ := exec_storesOperand hs ho s
  obtain rfl := Host.Outcome.next.inj (eq.symm.trans e)
  simp only [busClock_ram, busClock_cart, busClock_video, busClock_io, busWrite_ram, busWrite_cart, busWrite_video,
    busWrite_io, busWrite_launch, touchCart_image_size, ram, image, size, video, io, launch, true_and]
  refine ⟨fun p k hp ne => ?cell, fun h => writeRam_of_not_ram h w _, fun h => ?cart, n, lo, hi, fun h => ?video,
    fun h => ?io⟩
  case cell =>
    have other : target (effectiveAddress o s) ≠ .ram k := fun h => ne (hp.trans h.symm)
    rw [busValue_of_ram hp, busValue_of_ram hp, busClock_ram, busWrite_ram, ram, read_writeRam hram.1, if_neg other]
  case cart => rw [touchCart_of_not_cart h, cart h]
  case video => rw [writeVideo_of_not_video h]
  case io => rw [writeIo_of_not_io h]

end Sys2Proof.Machine
end

