-- ==== Sys2Proof/Proofs/Pushes.lean ====
section
/-! PROOFS. What pushes change: one cell each, from `0x0100 + SP` downward (R94, R178). -/

namespace Sys2Proof.Machine

/-- `t` is `s` after `n` pushes, but for registers and flags other than `SP`: the cells at and below `0x0100 + SP` may
differ and, where one of those addresses is no RAM cell, the video chip (R94, R178). -/
structure Pushed (n : Nat) (s t : State) : Prop where
  sp : t.sp = s.sp - BitVec.ofNat 8 n
  wf : s.ram.wf = true → t.ram.wf = true
  cells : s.ram.wf = true → ∀ k : BitVec 7, (∀ j < n, target (stackAddr (s.sp - BitVec.ofNat 8 j)) ≠ .ram k) →
    t.ram.read k.toNat = s.ram.read k.toNat
  cart : t.cart = s.cart
  io : t.io = s.io
  launch : t.launch = s.launch
  video : 0x7F + n ≤ s.sp.toNat → t.video = s.video

section
variable {n : Nat} {s t u : State}

theorem Pushed.zero (s : State) : Pushed 0 s s :=
  ⟨by simp, id, fun _ _ _ => rfl, rfl, rfl, rfl, fun _ => rfl⟩

/-- Registers other than `SP`, and the flags, are free. -/
theorem Pushed.of_eq (h : Pushed n s t) (h0 : u.sp = t.sp) (h1 : u.ram = t.ram) (h2 : u.cart = t.cart)
    (h3 : u.io = t.io) (h4 : u.video = t.video) (h5 : u.launch = t.launch) : Pushed n s u :=
  ⟨h0.trans h.sp, h1 ▸ h.wf, h1 ▸ h.cells, h2.trans h.cart, h3.trans h.io, h5.trans h.launch,
    fun hsp => h4.trans (h.video hsp)⟩

/-- No stack address reaches the I/O chip (R94). -/
theorem target_stackAddr_ne_io (sp : Byte) (r : BitVec 5) : target (stackAddr sp) ≠ .io r := by
  rw [target_stackAddr, target_zeroPage]
  split <;> exact Target.noConfusion

theorem Pushed.push (h : Pushed n s t) (w : Byte) : Pushed (n + 1) s (push w t) where
  sp := by rw [push_sp, h.sp]; bv_omega
  wf hs := by rw [push_ram, busWrite_ram]; exact wf_writeRam (h.wf hs) _ w
  cells hs k hk := by
    have other : target (stackAddr t.sp) ≠ .ram k := h.sp ▸ hk n (Nat.lt_succ_self n)
    rw [push_ram, busWrite_ram, read_writeRam (h.wf hs), if_neg other]
    exact h.cells hs k fun j hj => hk j (Nat.lt_succ_of_lt hj)
  cart := by rw [push_cart, busWrite_cart, touchCart_stackAddr, h.cart]
  io := by rw [push_io, busWrite_io, writeIo_of_not_io (target_stackAddr_ne_io t.sp), h.io]
  launch := by rw [push_launch, h.launch]
  video hsp := by
    have top : 0x80 ≤ t.sp.toNat := by rw [h.sp]; bv_omega
    have cell (r : BitVec 6) : target (stackAddr t.sp) ≠ .video r := by
      rw [target_stackAddr_of_ram top]; exact Target.noConfusion
    rw [push_video, busWrite_video, writeVideo_of_not_video cell, h.video (by omega)]

theorem Pushed.pushAddr (h : Pushed n s t) (w : Addr) : Pushed (n + 2) s (pushAddr w t) :=
  (h.push (hiByte w)).push (loByte w)

end

/-- The BRK vector lies in the window, off the hot spots: reading it selects no bank (R96, R103). -/
theorem busRead16_brkVector (s : State) : (busRead16 Config.brkVector s).2 = s := by
  have ⟨lo, hi⟩ := brkVector_touch s
  have vector : busTouch (Config.brkVector + 1) (busTouch Config.brkVector s) = s := by rw [lo]; exact hi
  exact vector

/-- The break pushes the return address and the status byte; the vector it reads only moves `PC` (R293). -/
theorem takeBreak_pushed (ret : Addr) (s : State) : Pushed 3 s (takeBreak ret s) := by
  have start : Pushed 0 s { s with b := true } := (Pushed.zero s).of_eq rfl rfl rfl rfl rfl rfl
  have three := (start.pushAddr ret).push (statusForPush (pushAddr ret { s with b := true }))
  simp only [takeBreak, busRead16_brkVector]
  exact three.of_eq rfl rfl rfl rfl rfl rfl

theorem exec_pushed {i : Instr} (h : 0 < pushCount i) (s : State) :
    ∃ n u, 3 ≤ n ∧ n ≤ 7 ∧ exec i s = .next (busClock n u) ∧ Pushed (pushCount i) s u := by
  cases i with
  | pha => exact ⟨3, _, by decide, by decide, rfl, (Pushed.zero s).push _⟩
  | php => exact ⟨3, _, by decide, by decide, rfl, (Pushed.zero s).push _⟩
  | jsr p =>
    have two : Pushed 2 s (pushAddr (s.pc - 1) s) := (Pushed.zero s).pushAddr _
    exact ⟨6, _, by decide, by decide, rfl, two.of_eq rfl rfl rfl rfl rfl rfl⟩
  | brk => exact ⟨7, _, by decide, by decide, rfl, takeBreak_pushed _ s⟩
  | _ => cases h

/-- Settles O33: the pushes go downward from `0x0100 + SP`, one cell each. -/
theorem pushesKeepOtherMemory : Obligations.PushesKeepOtherMemory := by
  unfold Obligations.PushesKeepOtherMemory
  intro i s t hram hi e
  obtain ⟨n, u, lo, hn, eq, pushed⟩ := exec_pushed hi s
  obtain rfl := Host.Outcome.next.inj (eq.symm.trans e)
  refine ⟨fun p k hp ne => ?cell, pushed.sp, pushed.cart, n, lo, hn, ?io, fun hsp => ?video⟩
  case cell =>
    rw [busValue_of_ram hp, busValue_of_ram hp]
    exact pushed.cells hram.1 k fun j hj h => ne j hj (hp.trans h.symm)
  case io => rw [busClock_io, pushed.io]
  case video => rw [busClock_video, pushed.video hsp, pushed.launch]

end Sys2Proof.Machine
end

