-- ==== Sys2Proof/Proofs/CartridgeImage.lean ====
section
/-! PROOFS. No step writes the cartridge image (R102): every instruction stores nothing, stores through the bus, or pushes. -/

namespace Sys2Proof.Machine

/-- The cartridge image and its size are the same; the bank may differ. -/
def SameImage (s t : State) : Prop := t.cart.image = s.cart.image ∧ t.cart.size = s.cart.size

theorem SameImage.trans {s t u : State} (h : SameImage s t) (h' : SameImage t u) : SameImage s u :=
  ⟨h'.1.trans h.1, h'.2.trans h.2⟩

theorem KeepsMemory.sameImage {s t : State} (h : KeepsMemory s t) : SameImage s t := ⟨h.image, h.size⟩

theorem exec_sameImage {i : Instr} {s t : State} (e : exec i s = .next t) : SameImage s t := by
  rcases store_kind i with hi | ⟨hi, o, ho⟩ | hi
  · obtain ⟨-, -, image, size, -⟩ := instructionsThatStoreNothingKeepMemory i s t hi e
    exact ⟨image, size⟩
  · obtain ⟨n, w, u, -, -, eq, keeps, -⟩ := exec_storesOperand hi ho s
    obtain rfl := Host.Outcome.next.inj (eq.symm.trans e)
    simp [SameImage, keeps.image, keeps.size]
  · obtain ⟨n, u, -, -, eq, pushed⟩ := exec_pushed hi s
    obtain rfl := Host.Outcome.next.inj (eq.symm.trans e)
    simp [SameImage, pushed.cart]

theorem fetch_keepsMemory (s : State) : KeepsMemory s (fetch s).2 :=
  (busTouch_keepsMemory s.pc s).of_eq rfl rfl rfl rfl rfl

theorem fetchInstr_keepsMemory (s : State) : KeepsMemory s (fetchInstr s).2 := by
  have one := fetch_keepsMemory s
  have two := one.trans (fetch_keepsMemory _)
  simp only [fetchInstr, fetchBytes]
  split
  · exact one
  · exact two
  · exact two.trans (fetch_keepsMemory _)

/-- A reset selects the launch bank and keeps the image (R75, R481). -/
theorem hostCall_sameImage (h : HostCall) (s : State) : SameImage s (hostCall h s) := by
  cases h with
  | reset => simp only [hostCall, hardReset_eq]; exact ⟨rfl, rfl⟩
  | setFire | setLine | setJoystick | setSwitch => exact ⟨rfl, rfl⟩

theorem hostCalls_sameImage (hs : List HostCall) (s : State) : SameImage s (hostCalls hs s) := by
  induction hs generalizing s with
  | nil => exact ⟨rfl, rfl⟩
  | cons h hs ih => exact (hostCall_sameImage h s).trans (ih (hostCall h s))

theorem hostTurn_sameImage (s : State) : SameImage s (hostTurn s) := by
  unfold hostTurn
  split
  · exact ⟨rfl, rfl⟩
  · exact hostCalls_sameImage _ _

theorem systemStep_sameImage {s t : State} (e : systemStep s = .next t) : SameImage s t := by
  cases hh : s.halted with
  | some p => rw [systemStep_of_halted hh] at e; cases e
  | none =>
    cases hw : s.video.waiting with
    | true =>
      obtain rfl := Host.Outcome.next.inj ((systemStep_of_waiting hh hw).symm.trans e)
      exact ⟨rfl, rfl⟩
    | false =>
      have fetched : SameImage s (fetchInstr s).2 := (fetchInstr_keepsMemory s).sameImage
      exact fetched.trans (exec_sameImage ((systemStep_of_running hh hw).symm.trans e))

/-- Settles O34: neither the host's turn nor the system step after it writes the image. -/
theorem cartridgeImageNeverChanges : Obligations.CartridgeImageNeverChanges := by
  unfold Obligations.CartridgeImageNeverChanges
  exact fun s t e => (hostTurn_sameImage s).trans (systemStep_sameImage e)

end Sys2Proof.Machine
end

