-- ==== Sys2Proof/Proofs/CallsAndReturns.lean ====
section
/-! PROOFS. Jumps, and that a return undoes its call where the stack is RAM (R94, R271 to R273, R293, R294). -/

namespace Sys2Proof.Machine

/-- Settles O22: both forms are their definitions, the indirect one two bus reads at `p` and `p + 1`. -/
theorem jumpsSetThePc : Obligations.JumpsSetThePc := by
  unfold Obligations.JumpsSetThePc
  exact fun p s => ⟨rfl, rfl⟩

/-! ### Reading the stack back -/

theorem wordOf_hiByte_loByte (w : Addr) : wordOf (hiByte w) (loByte w) = w :=
  BitVec.extractLsb'_append_extractLsb' (w := 8) (len := 8)

/-- In the upper half of the stack page different addresses are different cells (R94). -/
theorem target_stackAddr_inj {a b : Byte} (ha : 0x80 ≤ a.toNat) (hb : 0x80 ≤ b.toNat) :
    target (stackAddr a) = target (stackAddr b) ↔ a = b := by
  rw [target_stackAddr_of_ram ha, target_stackAddr_of_ram hb, Target.ram.injEq]
  bv_omega

section
variable {s t : State} {a : Byte}

/-- A stack address in the upper half reads the RAM alone: the clock and the registers do not matter. -/
theorem busValue_stackAddr_congr (ha : 0x80 ≤ a.toNat) (h : t.ram = s.ram) :
    busValue (stackAddr a) t = busValue (stackAddr a) s := by
  have cell := target_stackAddr_of_ram ha
  rw [busValue_of_ram cell, busValue_of_ram cell, h]

/-- A stack cell in RAM holds what was last pushed to it (R93, R178). -/
theorem busValue_push (hs : s.ram.wf = true) (hsp : 0x80 ≤ s.sp.toNat) (ha : 0x80 ≤ a.toNat) (w : Byte) :
    busValue (stackAddr a) (push w s) = if a = s.sp then w else busValue (stackAddr a) s := by
  have cell := target_stackAddr_of_ram ha
  rw [busValue_of_ram cell, busValue_of_ram cell, push_ram, busWrite_ram, read_writeRam hs, ← cell]
  simp only [target_stackAddr_inj hsp ha, eq_comm]

/-- A pushed address lies with its high byte above its low byte (R106). -/
theorem busValue_pushAddr (hs : s.ram.wf = true) (hsp : 0x81 ≤ s.sp.toNat) (ha : 0x80 ≤ a.toNat) (w : Addr) :
    busValue (stackAddr a) (pushAddr w s) =
      if a = s.sp - 1 then loByte w else if a = s.sp then hiByte w else busValue (stackAddr a) s := by
  have one : Pushed 1 s (push (hiByte w) s) := (Pushed.zero s).push _
  have below : 0x80 ≤ (s.sp - 1).toNat := by bv_omega
  rw [pushAddr, busValue_push (one.wf hs) (by rwa [push_sp]) ha, busValue_push hs (by omega) ha, push_sp]

/-- The break pushes the status byte below the address, with the flags as they were before it (R280, R293). -/
theorem busValue_takeBreak (hs : s.ram.wf = true) (hsp : 0x82 ≤ s.sp.toNat) (ha : 0x80 ≤ a.toNat) (ret : Addr) :
    busValue (stackAddr a) (takeBreak ret s) =
      if a = s.sp - 2 then statusForPush s else
      if a = s.sp - 1 then loByte ret else if a = s.sp then hiByte ret else busValue (stackAddr a) s := by
  have start : Pushed 0 s { s with b := true } := (Pushed.zero s).of_eq rfl rfl rfl rfl rfl rfl
  have two := start.pushAddr ret
  have below : 0x80 ≤ (s.sp - 2).toNat := by bv_omega
  have status : statusForPush (pushAddr ret { s with b := true }) = statusForPush s := by
    simp only [statusForPush_eq, pushAddr_n, pushAddr_v, pushAddr_d, pushAddr_i, pushAddr_z, pushAddr_c]
  have ram : (takeBreak ret s).ram = (push (statusForPush s) (pushAddr ret { s with b := true })).ram := by
    simp only [takeBreak, busRead16_ram, status]
  rw [busValue_stackAddr_congr ha ram, busValue_push (two.wf hs) (by rwa [pushAddr_sp]) ha,
    busValue_pushAddr (s := { s with b := true }) hs (Nat.le_of_succ_le hsp) ha, pushAddr_sp]
  rfl

/-- Pulling an address where one was pushed: the word, and nothing but `SP` moved. -/
theorem pullAddr_pushAddr {w : Addr} (hs : s.ram.wf = true) (hsp : 0x81 ≤ s.sp.toNat)
    (ram : t.ram = (pushAddr w s).ram) (sp : t.sp = s.sp - 2) : pullAddr t = (w, { t with sp := s.sp }) := by
  have above : t.sp + 2 = s.sp := by rw [sp]; bv_omega
  have middle : t.sp + 1 = s.sp - 1 := by rw [sp]; bv_omega
  have hi : busValue (stackAddr s.sp) t = hiByte w := by
    have ne : s.sp ≠ s.sp - 1 := by bv_omega
    have top : 0x80 ≤ s.sp.toNat := Nat.le_of_succ_le hsp
    rw [busValue_stackAddr_congr top ram, busValue_pushAddr hs hsp top, if_neg ne, if_pos rfl]
  have lo : busValue (stackAddr (s.sp - 1)) t = loByte w := by
    have below : 0x80 ≤ (s.sp - 1).toNat := by bv_omega
    rw [busValue_stackAddr_congr below ram, busValue_pushAddr hs hsp below, if_pos rfl]
  rw [pullAddr_eq, above, middle, hi, lo, wordOf_hiByte_loByte]

/-- RTI in one state update: status, `PC` and `SP` (R294). -/
theorem returnFromBreak_eq (s : State) : returnFromBreak s =
    { loadStatus (busValue (stackAddr (s.sp + 1)) s) s with
      sp := s.sp + 3
      pc := wordOf (busValue (stackAddr (s.sp + 3)) s) (busValue (stackAddr (s.sp + 2)) s) } := by
  simp only [returnFromBreak, pull_eq, pullAddr_eq, loadStatus_sp, BitVec.add_assoc]
  rfl

/-- Returning where a break was taken: the status byte and the address it pushed. -/
theorem returnFromBreak_takeBreak {ret : Addr} (hs : s.ram.wf = true) (hsp : 0x82 ≤ s.sp.toNat)
    (ram : t.ram = (takeBreak ret s).ram) (sp : t.sp = s.sp - 3) :
    returnFromBreak t = { loadStatus (statusForPush s) t with sp := s.sp, pc := ret } := by
  have above : t.sp + 3 = s.sp := by rw [sp]; bv_omega
  have middle : t.sp + 2 = s.sp - 1 := by rw [sp]; bv_omega
  have bottom : t.sp + 1 = s.sp - 2 := by rw [sp]; bv_omega
  have read {a : Byte} (ha : 0x80 ≤ a.toNat) := (busValue_stackAddr_congr ha ram).trans (busValue_takeBreak hs hsp ha ret)
  have hi : busValue (stackAddr s.sp) t = hiByte ret := by
    rw [read (by omega), if_neg (by bv_omega), if_neg (by bv_omega), if_pos rfl]
  have lo : busValue (stackAddr (s.sp - 1)) t = loByte ret := by
    rw [read (by bv_omega), if_neg (by bv_omega), if_pos rfl]
  have status : busValue (stackAddr (s.sp - 2)) t = statusForPush s := by
    rw [read (by bv_omega), if_pos rfl]
  rw [returnFromBreak_eq, above, middle, bottom, hi, lo, status, wordOf_hiByte_loByte]

theorem exec_rts_of_pushAddr {w : Addr} (hs : s.ram.wf = true) (hsp : 0x81 ≤ s.sp.toNat)
    (ram : t.ram = (pushAddr w s).ram) (sp : t.sp = s.sp - 2) :
    exec .rts t = .next (busClock 6 { t with sp := s.sp, pc := w + 1 }) := by
  simp only [exec, execRts, retire, pullAddr_pushAddr hs hsp ram sp]

theorem exec_rti_of_takeBreak {ret : Addr} (hs : s.ram.wf = true) (hsp : 0x82 ≤ s.sp.toNat)
    (ram : t.ram = (takeBreak ret s).ram) (sp : t.sp = s.sp - 3) :
    exec .rti t = .next (busClock 6 { loadStatus (statusForPush s) t with sp := s.sp, pc := ret }) := by
  simp only [exec, execRti, retire, returnFromBreak_takeBreak hs hsp ram sp]

end

/-- The bits of a status byte with bits 5 and 4 set (R25, R280). -/
theorem statusByte_bits : ∀ n v d i z c : Bool,
    let w : Byte := BitVec.ofBool n ++ BitVec.ofBool v ++ 1#1 ++ 1#1 ++ BitVec.ofBool d ++ BitVec.ofBool i ++
      BitVec.ofBool z ++ BitVec.ofBool c
    w.getLsbD 0 = c ∧ w.getLsbD 1 = z ∧ w.getLsbD 2 = i ∧ w.getLsbD 3 = d ∧ w.getLsbD 4 = true ∧ w.getLsbD 6 = v ∧
      w.getLsbD 7 = n := by decide

/-- A pushed status byte brings the flags back, and `B` as 1 (R280). -/
theorem statusWord_loadStatus_statusForPush (s t : State) :
    statusWord (loadStatus (statusForPush s) t) = statusWord { s with b := true } := by
  have ⟨c, z, i, d, b, v, n⟩ := statusByte_bits s.n s.v s.d s.i s.z s.c
  simp only [statusWord, statusForPush_eq, loadStatus, c, z, i, d, b, v, n]

/-- Settles O24: the return pulls from the cells the call pushed to, and the clock writes none of them. -/
theorem returnsUndoCalls : Obligations.ReturnsUndoCalls := by
  unfold Obligations.ReturnsUndoCalls
  refine ⟨fun p q s hram hsp => ?subroutine, fun q s hram hsp => ?exception⟩
  case subroutine =>
    have back := exec_rts_of_pushAddr (w := s.pc - 1)
      (t := { busClock 6 { pushAddr (s.pc - 1) s with pc := p } with pc := q }) hram.1 hsp rfl (pushAddr_sp _ s)
    exact ⟨_, _, rfl, back, BitVec.sub_add_cancel s.pc 1, rfl, by simp [statusWord]⟩
  case exception =>
    have back := exec_rti_of_takeBreak (ret := s.pc + 1) (t := { busClock 7 (takeBreak (s.pc + 1) s) with pc := q })
      hram.1 hsp rfl (takeBreak_pushed _ s).sp
    exact ⟨_, _, rfl, back, rfl, rfl, by simp [takeBreak], by simp [takeBreak], by simp [takeBreak],
      statusWord_loadStatus_statusForPush s s⟩

end Sys2Proof.Machine
end

