-- ==== Sys2Proof/Proofs/VideoStrobes.lean ====
section
/-! PROOFS. The strobes of the video chip and its registers without effect (R312 to R336). -/

namespace Sys2Proof.Machine

/-- The numbers above CXCLR hold no register (R336). -/
theorem writeRegOf_of_unmapped {r : BitVec 6} (h : 0x2D ≤ r.toNat) : writeRegOf r = .unmapped := by
  revert r; decide

theorem latch_clear {k : Collisions → Bool} (h : k ∈ Collisions.latches) : k .clear = false := by
  revert k; decide

/-- Settles O41: a bus write at a video address is the register's, and each register's effect is its row of the register
file. -/
theorem videoStrobeRegisters : Obligations.VideoStrobeRegisters := by
  unfold Obligations.VideoStrobeRegisters
  refine ⟨fun p w s r h => busWrite_of_video h w s, fun w s => ⟨?vsync, rfl, rfl, rfl, rfl, fun r hr => ?unmapped, rfl, rfl,
    rfl, rfl, rfl, rfl, rfl, fun k hk => ?cleared, rfl⟩⟩
  case vsync => exact writeVsync_eq w s
  case unmapped => rw [videoWrite, writeRegOf_of_unmapped hr, writeReg]
  case cleared => exact latch_clear hk

end Sys2Proof.Machine
end

