-- ==== Sys2Proof/Proofs/Encoding.lean ====
section
/-! PROOFS. Decoder and encoder are inverse to each other (R130 to R139), and the decoder is the opcode map (R137). -/

namespace Sys2Proof

open Machine (assembleBytes opcodeLength_cases wordOf_hiByte_loByte)

/-! ### The decoder: a whole instruction off the head of the list -/

section
variable {op : Byte} {ops bs rest : List Byte} {i : Instr}

/-- As many bytes as the opcode byte asks for are taken, and assembled (R130). -/
theorem decode_append (h : (op :: ops).length = opcodeLength op) (rest : List Byte) :
    decode (op :: ops ++ rest) = .ok (assembleBytes (op :: ops), rest) := by
  rcases opcodeLength_cases op with n | n | n <;> rw [n] at h
  case inl =>
    obtain rfl : ops = [] := by simpa using h
    simp [decode, n, assembleBytes]
  case inr.inl =>
    obtain ⟨b1, rfl⟩ : ∃ b1, ops = [b1] := List.length_eq_one_iff.1 (by simpa using h)
    simp [decode, n, assembleBytes]
  case inr.inr =>
    obtain ⟨b1, b2, rfl⟩ : ∃ b1 b2, ops = [b1, b2] := List.length_eq_two.1 (by simpa using h)
    simp [decode, n, assembleBytes]

/-- The decoder answers in no other way: a list that decodes starts with a whole instruction (R130). -/
theorem bytes_of_decode (h : decode bs = .ok (i, rest)) :
    ∃ op ops, bs = op :: ops ++ rest ∧ (op :: ops).length = opcodeLength op ∧ i = assembleBytes (op :: ops) := by
  cases bs with
  | nil => cases h
  | cons op tail =>
    simp only [decode] at h
    split at h
    next n => cases h; exact ⟨op, [], rfl, n.symm, rfl⟩
    next b1 tail n => cases h; exact ⟨op, [b1], rfl, n.symm, rfl⟩
    next b1 b2 tail n => cases h; exact ⟨op, [b1, b2], rfl, n.symm, rfl⟩
    next => cases h

end

/-! ### Operand words: little-endian, `b2 || b1` (R134) -/

theorem loByte_append (hi lo : Byte) : loByte (hi ++ lo) = lo := BitVec.extractLsb'_append_eq_right

theorem hiByte_append (hi lo : Byte) : hiByte (hi ++ lo) = hi := BitVec.extractLsb'_append_eq_left

/-- An instruction that the map gives for every pair of operand bytes is the one given for the bytes of its address. -/
theorem assembleBytes_address {op : Byte} {form : Addr → Instr} (h : ∀ b1 b2, assemble op b1 b2 = form (wordOf b2 b1))
    (a : Addr) : assembleBytes [op, loByte a, hiByte a] = form a := by
  rw [assembleBytes, h, wordOf_hiByte_loByte]

theorem cons_bytes_wordOf (op b1 b2 : Byte) : [op, loByte (wordOf b2 b1), hiByte (wordOf b2 b1)] = [op, b1, b2] := by
  rw [wordOf, loByte_append, hiByte_append]

/-! ### The map, byte by byte and instruction by instruction (R137 to R139) -/

/-- Every byte is the opcode of a well-formed instruction: of an entry of the map, or of `illegal` (R137, R139). -/
theorem exists_opcodeOf_eq (op : Byte) : ∃ i, i.wf = true ∧ opcodeOf i = op := by
  have entry : (assemble op 0 0).wf = true ∧ opcodeOf (assemble op 0 0) = op := by revert op; decide +kernel
  exact ⟨_, entry⟩

/-- The map has no entry at the bytes of R139, whatever follows them. -/
theorem assemble_of_illegal {op : Byte} (h : illegalBytes.contains op = true) (b1 b2 : Byte) :
    assemble op b1 b2 = .illegal op := by
  have entries : illegalBytes.all (fun op => assemble op b1 b2 == .illegal op) = true := rfl
  exact eq_of_beq (List.all_eq_true.mp entries op (List.contains_iff_mem.mp h))

/-- The entry at an instruction's opcode byte: with the instruction's operand bytes it is that instruction, and with any
operand bytes it is a well-formed instruction that is encoded as them. -/
theorem entry_of_wf {i : Instr} (h : i.wf = true) :
    assembleBytes (opcodeOf i :: operandBytes i) = i ∧ ∀ b1 b2, (assemble (opcodeOf i) b1 b2).wf = true ∧
      encode (assemble (opcodeOf i) b1 b2) = [opcodeOf i, b1, b2].take (encode i).length := by
  -- Once `opcodeOf` is written out, the opcode byte is a literal and the lookup of it evaluates.
  cases i with
  | illegal op =>
    have entry := assemble_of_illegal h
    refine ⟨entry 0 0, fun b1 b2 => ?_⟩
    simp only [opcodeOf, entry]
    exact ⟨h, rfl⟩
  | ldaAbs | ldaAbsX | ldaAbsY | ldxAbs | ldxAbsY | ldyAbs | ldyAbsX | staAbs | staAbsX | staAbsY | stxAbs | styAbs
    | adcAbs | adcAbsX | adcAbsY | sbcAbs | sbcAbsX | sbcAbsY | cmpAbs | cmpAbsX | cmpAbsY | cpxAbs | cpyAbs
    | incAbs | incAbsX | decAbs | decAbsX | andAbs | andAbsX | andAbsY | oraAbs | oraAbsX | oraAbsY
    | eorAbs | eorAbsX | eorAbsY | bitAbs | aslAbs | aslAbsX | lsrAbs | lsrAbsX | rolAbs | rolAbsX | rorAbs | rorAbsX
    | jmpAbs | jmpInd | jsr =>
    simp only [opcodeOf]
    exact ⟨assembleBytes_address (fun _ _ => rfl) _, fun b1 b2 => ⟨rfl, cons_bytes_wordOf _ b1 b2⟩⟩
  | _ =>
    simp only [opcodeOf]
    exact ⟨rfl, fun _ _ => ⟨rfl, rfl⟩⟩

section
open Laws.EncodedLength

/-- The encoder writes as many bytes as the opcode byte asks for (R130): the laws of the single instructions, together. -/
theorem encode_length {i : Instr} (h : i.wf = true) : (encode i).length = opcodeLength (opcodeOf i) :=
  Instr.casesOn (motive := Statement) i
    ldaImm ldaZp ldaZpX ldaAbs ldaAbsX ldaAbsY ldaIndX ldaIndY ldxImm ldxZp ldxZpY ldxAbs ldxAbsY ldyImm ldyZp
    ldyZpX ldyAbs ldyAbsX staZp staZpX staAbs staAbsX staAbsY staIndX staIndY stxZp stxZpY stxAbs styZp styZpX
    styAbs tax tay txa tya tsx txs adcImm adcZp adcZpX adcAbs adcAbsX adcAbsY adcIndX adcIndY sbcImm sbcZp sbcZpX
    sbcAbs sbcAbsX sbcAbsY sbcIndX sbcIndY cmpImm cmpZp cmpZpX cmpAbs cmpAbsX cmpAbsY cmpIndX cmpIndY cpxImm cpxZp
    cpxAbs cpyImm cpyZp cpyAbs incZp incZpX incAbs incAbsX decZp decZpX decAbs decAbsX inx iny dex dey andImm andZp
    andZpX andAbs andAbsX andAbsY andIndX andIndY oraImm oraZp oraZpX oraAbs oraAbsX oraAbsY oraIndX oraIndY eorImm
    eorZp eorZpX eorAbs eorAbsX eorAbsY eorIndX eorIndY bitZp bitAbs aslZp aslZpX aslAbs aslAbsX aslAcc lsrZp lsrZpX
    lsrAbs lsrAbsX lsrAcc rolZp rolZpX rolAbs rolAbsX rolAcc rorZp rorZpX rorAbs rorAbsX rorAcc bcc bcs beq bmi bne
    bpl bvc bvs jmpAbs jmpInd jsr rts pha pla php plp clc sec cli sei cld sed clv nop brk rti illegal h

end

/-- A whole instruction's bytes are assembled to a well-formed instruction, and the encoder writes them back. -/
theorem encode_assembleBytes {op : Byte} {ops : List Byte} (h : (op :: ops).length = opcodeLength op) :
    (assembleBytes (op :: ops)).wf = true ∧ encode (assembleBytes (op :: ops)) = op :: ops := by
  obtain ⟨i, hi, rfl⟩ := exists_opcodeOf_eq op
  have entry := (entry_of_wf hi).2
  rw [encode_length hi, ← h] at entry
  match ops with
  | [] => exact entry 0 0
  | [b1] => exact entry b1 0
  | [b1, b2] => exact entry b1 b2
  | _ :: _ :: _ :: _ =>
    have := opcodeLength_cases (opcodeOf i)
    simp only [List.length_cons] at h
    omega

/-- Settles O1: the encoder writes one whole instruction, and its opcode byte's entry is the instruction it came from. -/
theorem decodeOfEncode : Obligations.DecodeOfEncode := by
  unfold Obligations.DecodeOfEncode
  intro i rest h
  calc decode (encode i ++ rest)
    _ = .ok (assembleBytes (encode i), rest) := decode_append (encode_length h) rest
    _ = .ok (i, rest) := by rw [encode, (entry_of_wf h).1]

/-- Settles O2: the decoder assembles one whole instruction from the head of the list, and the encoder writes it back. -/
theorem encodeOfDecode : Obligations.EncodeOfDecode := by
  unfold Obligations.EncodeOfDecode
  intro bs i rest h
  obtain ⟨op, ops, rfl, len, rfl⟩ := bytes_of_decode h
  obtain ⟨wf, bytes⟩ := encode_assembleBytes len
  exact ⟨wf, by rw [bytes]⟩

/-- An instruction is decoded from any list that its encoding starts. -/
theorem decode_of_encode_append {i : Instr} {bs rest : List Byte} (h : i.wf = true) (bytes : encode i ++ rest = bs) :
    decode bs = .ok (i, rest) := bytes ▸ decodeOfEncode i rest h

/-- Settles O3: the encoder writes each entry's instruction as its row of the map, so that the row decodes to it. -/
theorem decodeWordsFromTheOpcodeMap : Obligations.DecodeWordsFromTheOpcodeMap := by
  unfold Obligations.DecodeWordsFromTheOpcodeMap
  intro b1 b2 rest
  and_intros
  iterate 151
    apply decode_of_encode_append rfl
    simp only [encode, opcodeOf, operandBytes, loByte_append, hiByte_append, List.cons_append, List.nil_append]
  exact fun op h => decodeOfEncode (.illegal op) rest h

end Sys2Proof
end

