-- ==== Sys2Proof/Proofs/BinaryArithmetic.lean ====
section
/-! PROOFS. ADC and SBC with `D = 0` as arithmetic on numbers (R221, R223). -/

namespace Sys2Proof.Machine

/-! ### The 9-bit sum and difference -/

theorem getLsbD_eight_eq_msb (t : BitVec 9) : t.getLsbD 8 = t.msb := t.msb_eq_getLsbD_last.symm

theorem binarySum_eq (a m : Byte) (c : Bool) : binarySum a m c = BitVec.ofNat 9 (a.toNat + m.toNat + c.toNat) := by
  cases c <;> simp [binarySum, carryIn] <;> bv_omega

/-- The result byte of an addition (R221). -/
theorem binarySum_result (a m : Byte) (c : Bool) :
    (binarySum a m c).setWidth 8 = BitVec.ofNat 8 (a.toNat + m.toNat + c.toNat) := by
  rw [binarySum_eq, BitVec.setWidth_ofNat_of_le (by decide)]

/-- Bit 8 of the sum is its carry: two bytes and a carry are below 512 (R221). -/
theorem binarySum_carry (a m : Byte) (c : Bool) :
    (binarySum a m c).getLsbD 8 = decide (256 ≤ a.toNat + m.toNat + c.toNat) := by
  have ha := a.isLt
  have hm := m.isLt
  have hc := c.toNat_le
  rw [binarySum_eq, getLsbD_eight_eq_msb, BitVec.msb_eq_decide, BitVec.toNat_ofNat, Nat.mod_eq_of_lt (by omega)]

theorem binaryDiff_eq (a m : Byte) (borrow : Bool) :
    binaryDiff a m borrow = BitVec.ofInt 9 ((a.toNat : Int) - m.toNat - borrow.toNat) := by
  apply BitVec.eq_of_toNat_eq
  cases borrow <;> simp [binaryDiff, carryIn, BitVec.toNat_ofInt] <;> omega

/-- The result byte of a subtraction (R223). -/
theorem binaryDiff_result (a m : Byte) (borrow : Bool) :
    (binaryDiff a m borrow).setWidth 8 = BitVec.ofInt 8 ((a.toNat : Int) - m.toNat - borrow.toNat) := by
  rw [binaryDiff_eq]
  apply BitVec.eq_of_toNat_eq
  simp only [BitVec.toNat_setWidth, BitVec.toNat_ofInt]
  omega

/-- Bit 8 of the difference is its borrow: the difference lies in -256 to 255, and the bit is its sign (R223). -/
theorem binaryDiff_borrow (a m : Byte) (borrow : Bool) :
    (!(binaryDiff a m borrow).getLsbD 8) = decide (0 ≤ (a.toNat : Int) - m.toNat - borrow.toNat) := by
  have ha := a.isLt
  have hm := m.isLt
  have hb := borrow.toNat_le
  rw [binaryDiff_eq, getLsbD_eight_eq_msb, BitVec.msb_eq_toInt,
    BitVec.toInt_ofInt_eq_self (by decide) (by omega) (by omega), ← decide_not]
  simp only [not_lt]

/-! ### The effects -/

/-- ADC with `D = 0`, its sum a number (R221). -/
theorem adc_of_binary {s : State} (h : s.d = false) (m : Byte) :
    let sum := s.a.toNat + m.toNat + s.c.toNat
    let r := BitVec.ofNat 8 sum
    adc m s = setSum r (decide (256 ≤ sum)) (((s.a ^^^ r) &&& (m ^^^ r)).getLsbD 7) s := by
  simp only [adc, h, Bool.false_eq_true, if_false, overflowAdd, binarySum_result, binarySum_carry]

/-- SBC with `D = 0`, its difference a number (R223). -/
theorem sbc_of_binary {s : State} (h : s.d = false) (m : Byte) :
    let diff : Int := (s.a.toNat : Int) - m.toNat - (!s.c).toNat
    let r := BitVec.ofInt 8 diff
    sbc m s = setSum r (decide (0 ≤ diff)) (((s.a ^^^ m) &&& (s.a ^^^ r)).getLsbD 7) s := by
  simp only [sbc, h, Bool.false_eq_true, if_false, overflowSub, binaryDiff_result, binaryDiff_borrow]

/-! ### The instructions -/

/-- Settles O11: the operand is read, which moves neither `A`, `C` nor `D`, and its byte is added. -/
theorem adcBinaryResult : Obligations.AdcBinaryResult := by
  unfold Obligations.AdcBinaryResult
  intro i s hi hd
  have effect : readEffect i.mnemonic = some adc := by rw [hi]; rfl
  obtain ⟨o, ho⟩ := operand_of_read effect
  refine ⟨o, ho, ?_⟩
  have binary : (readOperand o s).2.d = false := by rw [readOperand_d, hd]
  rw [exec_read effect ho, adc_of_binary binary, readOperand_a, readOperand_c]
  rfl

/-- Settles O12: the operand is read, which moves neither `A`, `C` nor `D`, and its byte is subtracted. -/
theorem sbcBinaryResult : Obligations.SbcBinaryResult := by
  unfold Obligations.SbcBinaryResult
  intro i s hi hd
  have effect : readEffect i.mnemonic = some sbc := by rw [hi]; rfl
  obtain ⟨o, ho⟩ := operand_of_read effect
  refine ⟨o, ho, ?_⟩
  have binary : (readOperand o s).2.d = false := by rw [readOperand_d, hd]
  rw [exec_read effect ho, sbc_of_binary binary, readOperand_a, readOperand_c]
  rfl

end Sys2Proof.Machine
end

