-- ==== Sys2Proof/Proofs/WsyncWait.lean ====
section
/-! PROOFS. The WSYNC wait (R391, R392): its steps together are one clock call, and that call ends at the line wrap. -/

namespace Sys2Proof.Machine

/-! ### The video chip: `waiting` is no input of a tick, and clock calls add up -/

section
variable (w : Bool) (s : Video)

/-- `s` with the flag `waiting` set to `w`. -/
def Video.withWaiting : Video := { s with waiting := w }

@[simp] theorem renderPixel_withWaiting (fvl : Nat) :
    renderPixel fvl (s.withWaiting w) = (renderPixel fvl s).withWaiting w := by
  have same : active fvl (s.withWaiting w) = active fvl s := rfl
  simp only [renderPixel, same]
  split <;> rfl

@[simp] theorem commitPending_withWaiting :
    commitPending (s.withWaiting w) = (commitPending s).withWaiting w := by
  have shape (p : Player) (s : Video) : commitShape p (s.withWaiting w) = (commitShape p s).withWaiting w := by
    have same : (s.withWaiting w).grpPending = s.grpPending := rfl
    simp only [commitShape, same]
    split <;> rfl
  have enable (s : Video) : commitEnable (s.withWaiting w) = (commitEnable s).withWaiting w := by
    have same : (s.withWaiting w).enablPending = s.enablPending := rfl
    simp only [commitEnable, same]
    split <;> rfl
  simp only [commitPending, shape, enable]

@[simp] theorem advance_withWaiting : advance (s.withWaiting w) = (advance s).withWaiting w := by
  have same : (s.withWaiting w).hpos = s.hpos := rfl
  simp only [advance, same]
  split
  · rw [lineWrap, lineWrap, ← commitPending_withWaiting]; rfl
  · rfl

/-- No tick reads `waiting` (R371): only the system step does (R160). -/
theorem ticks_withWaiting (fvl k : Nat) : ticks fvl k (s.withWaiting w) = (ticks fvl k s).withWaiting w := by
  induction k generalizing s with
  | zero => rfl
  | succ k ih => simp only [ticks_succ, tick, renderPixel_withWaiting, advance_withWaiting, ih]

end

section
variable {s : Video}

/-- With no strobe armed a clock call is its ticks and the transfer of the WSYNC latch (R388, R390). -/
theorem videoClock_of_unarmed (h : s.armed = .all false) (fvl n : Nat) :
    videoClock fvl n s = (ticks fvl (3 * n) s).withWaiting (ticks fvl (3 * n) s).wsyncLatch := by
  have none_armed : commitPositions (ticks fvl (3 * n) s) = ticks fvl (3 * n) s := by
    have armed : (ticks fvl (3 * n) s).armed = .all false := by rw [ticks_armed, h]
    simp only [commitPositions, committedPos, armed, PerObject.get_all, Bool.false_eq_true, if_false]
    rw [← armed]; rfl
  simp only [videoClock, Config.pixelsPerCycle, none_armed, Video.withWaiting]

/-- Two clock calls with nothing armed before them are one (R388). -/
theorem videoClock_videoClock (h : s.armed = .all false) (fvl m n : Nat) :
    videoClock fvl n (videoClock fvl m s) = videoClock fvl (m + n) s := by
  rw [videoClock_of_unarmed (videoClock_armed fvl m s), videoClock_of_unarmed h, videoClock_of_unarmed h,
    ticks_withWaiting, ← ticks_add, ← Nat.mul_add]
  rfl

/-- The ticks up to the end of the line: both counters move to the next line and the WSYNC latch clears (R374). -/
theorem ticks_to_wrap (fvl : Nat) {k : Nat} (hs : s.hpos < 228) (hk : s.hpos + k = 228) :
    (ticks fvl k s).hpos = 0 ∧ (ticks fvl k s).vpos = (if s.vpos + 1 = 262 then 0 else s.vpos + 1) ∧
      (ticks fvl k s).wsyncLatch = false := by
  obtain ⟨j, rfl⟩ : ∃ j, k = j + 1 := ⟨k - 1, by omega⟩
  obtain ⟨hpos, vpos, -⟩ := ticks_before_wrap fvl j (s := s) (by omega)
  have last : (ticks fvl j s).hpos + 1 = 228 := by omega
  rw [ticks_add, ticks_succ, ticks_zero, tick_hpos, tick_vpos, tick_wsyncLatch, if_pos last, if_pos last, if_pos last,
    vpos]
  exact ⟨rfl, rfl, rfl⟩

end

/-! ### The timer: clock calls add up -/

/-- A clock call subtracts its cycles modulo the prescaled range (R429). -/
theorem ioClock_timerRaw_eq_emod (n : Nat) (t : Io) :
    ((ioClock n t).timerRaw : Int) = ((t.timerRaw : Int) - n) % t.prescale.range := by
  have below : n % t.prescale.range ≤ t.prescale.range :=
    (Nat.mod_lt n (Nat.lt_of_lt_of_le (by decide) t.prescale.range_pos)).le
  rw [ioClock, Int.natCast_mod, Int.natCast_add, Int.natCast_sub below, Int.natCast_mod, ← Int.add_sub_assoc,
    Int.sub_emod_emod, add_sub_right_comm, Int.add_emod_right]

/-- The timer counts the same cycles in one clock call or in two (R429). -/
theorem ioClock_ioClock (m n : Nat) (t : Io) : ioClock n (ioClock m t) = ioClock (m + n) t := by
  have raw : (ioClock n (ioClock m t)).timerRaw = (ioClock (m + n) t).timerRaw := by
    rw [← Int.natCast_inj, ioClock_timerRaw_eq_emod, ioClock_timerRaw_eq_emod, ioClock_timerRaw_eq_emod,
      ioClock_prescale, Int.emod_sub_emod, Int.sub_sub, Int.natCast_add]
  calc ioClock n (ioClock m t)
    _ = { t with timerRaw := (ioClock n (ioClock m t)).timerRaw } := rfl
    _ = ioClock (m + n) t := by rw [raw]; rfl

theorem ioClock_zero {t : Io} (h : IoOk t) : ioClock 0 t = t := by
  have raw : (ioClock 0 t).timerRaw = t.timerRaw := by
    rw [ioClock_timerRaw h (Nat.zero_le _), if_pos (Nat.zero_le _), Nat.sub_zero]
  calc ioClock 0 t
    _ = { t with timerRaw := (ioClock 0 t).timerRaw } := rfl
    _ = t := by rw [raw]

/-! ### The wait -/

section
variable {s : State}

/-- Two clock calls of the CORE with nothing armed before them are one (R85). -/
theorem busClock_busClock (h : s.video.armed = .all false) (m n : Nat) :
    busClock n (busClock m s) = busClock (m + n) s := by
  simp only [busClock, videoClock_videoClock h, ioClock_ioClock]

/-- At a system-step boundary a clock call of no cycles changes nothing. -/
theorem busClock_zero (h : Inv s) : busClock 0 s = s := by
  obtain ⟨armed, latch⟩ := h.settled
  have video : videoClock s.launch.firstVisibleLine 0 s.video = s.video := by
    rw [videoClock_of_unarmed armed, Nat.mul_zero, ticks_zero, ← latch]; rfl
  simp only [busClock, video, ioClock_zero h.ok.io_ok]

/-- A run of one more step goes on from where the shorter one got to. -/
theorem run_succ {M : Host.Core} {k : Nat} {u t : M.State} (h : M.run k u = .next t) : M.run (k + 1) u = M.step t := by
  induction k generalizing u with
  | zero =>
    obtain rfl : t = u := (Host.Outcome.next.inj h).symm
    simp only [Host.Core.run]
    cases M.step t <;> rfl
  | succ k ih =>
    rw [Host.Core.run] at h ⊢
    cases e : M.step u with
    | next v => rw [e] at h; exact ih h
    | fault r => rw [e] at h; cases h
    | refused r => rw [e] at h; cases h

/-- Inside the line the WSYNC latch, and with it `waiting`, is as it was before the clock call (R390). -/
theorem waiting_busClock_before_wrap (h : Inv s) {n : Nat} (hn : s.video.hpos + 3 * n < 228) :
    (busClock n s).video.waiting = s.video.waiting := by
  obtain ⟨-, -, latch⟩ := ticks_before_wrap s.launch.firstVisibleLine (3 * n) hn
  rw [busClock_video, videoClock_waiting, latch, h.settled.waiting_latch]

/-- The waiting steps up to the line wrap are one clock call (R160, R391). -/
theorem run_of_waiting (h : Inv s) (calls : s.inputs = []) (hh : s.halted = none) (hw : s.video.waiting = true)
    {j : Nat} (hj : s.video.hpos + 3 * j ≤ 228) : Sys2Proof.core.run j s = .next (busClock j s) := by
  induction j with
  | zero => rw [busClock_zero h]; rfl
  | succ j ih =>
    have waits : (busClock j s).video.waiting = true := by rw [waiting_busClock_before_wrap h (by omega), hw]
    rw [run_succ (ih (by omega))]
    calc step (busClock j s)
      _ = systemStep (busClock j s) := step_of_inputs_nil calls
      _ = .next (busClock 1 (busClock j s)) := systemStep_of_waiting hh waits
      _ = .next (busClock (j + 1) s) := by rw [busClock_busClock h.settled.armed_none]

end

/-- Settles O52: `(228 - hpos) / 3` cycles are exactly what is left of the line, as `hpos` is a multiple of 3. -/
theorem wsyncWaitEndsAtTheNextLine : Obligations.WsyncWaitEndsAtTheNextLine := by
  unfold Obligations.WsyncWaitEndsAtTheNextLine
  intro s h calls hh hw steps
  have hlt := h.ok.video_ok.hpos_lt
  have hmod := h.ok.video_ok.hpos_mod
  have vlt := h.ok.video_ok.vpos_lt
  have line : s.video.hpos + 3 * steps = 228 := by omega
  obtain ⟨hpos, vpos, latch⟩ := ticks_to_wrap s.launch.firstVisibleLine hlt line
  refine ⟨by omega, fun j hj => ⟨busClock j s, run_of_waiting h calls hh hw (by omega), busClock_sameCpu j s, rfl, rfl, rfl,
    ?waiting, fun inside => ?counters⟩, busClock steps s, run_of_waiting h calls hh hw line.le, hpos, ?nextLine⟩
  case waiting =>
    rcases hj.lt_or_eq with inside | rfl
    · rw [waiting_busClock_before_wrap h (by omega), hw, decide_eq_true inside]
    · rw [busClock_video, videoClock_waiting, latch]; simp
  case counters =>
    obtain ⟨hpos, vpos, -⟩ := ticks_before_wrap s.launch.firstVisibleLine (3 * j) (s := s.video) (by omega)
    exact ⟨hpos, vpos⟩
  case nextLine =>
    rw [busClock_video, videoClock_vpos, vpos]
    split <;> omega

end Sys2Proof.Machine
end

