-- ==== Sys2Proof/Proofs/DecodedStep.lean ====
section
/-! PROOFS. The step as fetch, decode and execute (R160 to R163): which bytes a fetch reads and what it leaves, and that every
instruction answers. -/

namespace Sys2Proof.Machine

/-! ### Fetching -/

section
variable {p : Addr} {s : State}

/-- A fetch moves `PC` past the bytes and can select a bank; it leaves everything else (R109, R163). -/
theorem fetchInstr_state (s : State) : (fetchInstr s).2 =
    { s with pc := s.pc + BitVec.ofNat 16 (opcodeLength (busValue s.pc s)), cart := (fetchInstr s).2.cart } := by
  apply State.ext <;> simp [fetchInstr_pc]

/-- A hot spot reads 0 (R104). -/
theorem busValue_of_hot {off : BitVec 12} (ht : target p = .cart off) (hh : s.cart.hot off = true) :
    busValue p s = 0 := congrArg Prod.fst (busRead_of_hot ht hh)

/-- A byte other than 0 is read off the hot spots: fetching it moves `PC` alone (R104, R163). -/
theorem fetch_of_value_ne_zero (h : busValue s.pc s ≠ 0) : fetch s = (busValue s.pc s, { s with pc := s.pc + 1 }) := by
  have cold : busTouch s.pc s = s :=
    busTouch_of_cold fun off ht => Bool.eq_false_iff.mpr fun hh => h (busValue_of_hot ht hh)
  simp only [fetch, busRead_eq, cold]

/-- A hot spot reads as BRK, one byte long: the opcode byte of a longer instruction is not 0 (R104, R130). -/
theorem value_ne_zero_of_long (h : opcodeLength (busValue p s) ≠ 1) : busValue p s ≠ 0 :=
  fun zero => h (by rw [zero]; decide)

/-- Where two fetches leave the bank as it was, the second reads what the bus showed before both: either the first selected
nothing, or the second is at a hot spot too, which reads 0 in both banks (R103, R104). -/
theorem value_of_second_fetch (h : (fetch (fetch s).2).2.cart = s.cart) :
    (fetch (fetch s).2).1 = busValue (s.pc + 1) s := by
  have hot_iff (off : BitVec 12) : (fetch s).2.cart.hot off = s.cart.hot off := by
    rw [Cart.hot, Cart.hot, (fetch_keepsMemory s).size]
  by_cases second : ∃ off, target (s.pc + 1) = .cart off ∧ s.cart.hot off = true
  · obtain ⟨off, ht, hh⟩ := second
    exact (busValue_of_hot (p := s.pc + 1) ht ((hot_iff off).trans hh)).trans (busValue_of_hot ht hh).symm
  · have cold : busTouch (s.pc + 1) (fetch s).2 = (fetch s).2 := busTouch_of_cold fun off ht =>
      (hot_iff off).trans (Bool.eq_false_iff.mpr fun hh => second ⟨off, ht, hh⟩)
    have first : (fetch s).2.cart = s.cart := (congrArg State.cart cold).symm.trans h
    exact busValue_congr (s.pc + 1) first (by simp) (by simp) (by simp)

/-- A fetch that selects no bank reads the bytes the bus shows from `PC` upward, as many as the opcode byte asks for (R130,
R163). -/
theorem fetchBytes_of_quiet (h : FetchQuiet s) : (fetchBytes s).1 =
    [busValue s.pc s, busValue (s.pc + 1) s, busValue (s.pc + 2) s].take (opcodeLength (busValue s.pc s)) := by
  have opcode : (fetch s).1 = busValue s.pc s := rfl
  unfold FetchQuiet at h
  rcases opcodeLength_cases (busValue s.pc s) with n | n | n <;> simp only [fetchInstr, fetchBytes, opcode, n] at h ⊢
  case inl => rfl
  case inr.inl => rw [value_of_second_fetch h]; rfl
  case inr.inr =>
    have first := fetch_of_value_ne_zero (s := s) (value_ne_zero_of_long (by omega))
    rw [first] at h ⊢
    rw [value_of_second_fetch h, BitVec.add_assoc]
    rfl

end

/-! ### The step of a running state -/

section
variable {s : State} {i : Instr}

theorem step_of_running (h : Running s) : step s = exec (fetchInstr s).1 (fetchInstr s).2 :=
  (step_of_inputs_nil h.no_calls).trans (systemStep_of_running h.not_halted h.not_waiting)

/-- The decoder, on exactly the bytes fetched, answers the instruction that runs, and these bytes are its encoding. -/
theorem fetchInstr_of_decode (h : decode (fetchBytes s).1 = .ok (i, [])) :
    (fetchInstr s).1 = i ∧ opcodeLength (busValue s.pc s) = (encode i).length := by
  have runs : (fetchInstr s).1 = i := by
    have answer := (fetchBytes_decode s).symm.trans h
    cases answer; rfl
  have bytes : encode i ++ [] = (fetchBytes s).1 := (encodeOfDecode _ i [] h).2
  rw [← fetchBytes_length, ← bytes, List.append_nil]
  exact ⟨runs, rfl⟩

/-- The bytes after a whole instruction do not matter to its decoding (R130). -/
theorem decode_take {op : Byte} {bs rest : List Byte} (h : decode (op :: bs) = .ok (i, rest)) :
    decode ((op :: bs).take (opcodeLength op)) = .ok (i, []) := by
  obtain ⟨op', ops, bytes, len, rfl⟩ := bytes_of_decode h
  obtain rfl : op = op' := (List.cons.inj bytes).1
  rw [bytes, ← len, List.take_left]
  simpa only [List.append_nil] using decode_append len []

end

/-- Settles O4: the decoder answers the instruction that is run, and its encoding is the bytes fetched, as many as `PC` moves. -/
theorem stepRunsDecodedInstruction : Obligations.StepRunsDecodedInstruction := by
  unfold Obligations.StepRunsDecodedInstruction
  have fetched (s : State) (i : Instr) (hr : Running s) (hd : decode (fetchBytes s).1 = .ok (i, [])) :
      step s = exec i (fetchBytes s).2 ∧ (fetchBytes s).2 =
        { s with pc := s.pc + BitVec.ofNat 16 (encode i).length, cart := (fetchBytes s).2.cart } := by
    obtain ⟨rfl, len⟩ := fetchInstr_of_decode hd
    exact ⟨step_of_running hr, len ▸ fetchInstr_state s⟩
  refine ⟨fetched, fun s i rest hr quiet hd => ?shown⟩
  case shown =>
    have bytes : decode (fetchBytes s).1 = .ok (i, []) := by rw [fetchBytes_of_quiet quiet]; exact decode_take hd
    obtain ⟨runs, state⟩ := fetched s i hr bytes
    have cart : (fetchBytes s).2.cart = s.cart := quiet
    rw [runs, state, cart]

/-! ### Illegal opcodes (R139, R162) -/

/-- An illegal opcode is one byte that is not 0, so that its fetch is quiet (R104, R140). -/
theorem fetchInstr_of_illegal {s : State} (h : illegalBytes.contains (busValue s.pc s) = true) :
    fetchInstr s = (.illegal (busValue s.pc s), { s with pc := s.pc + 1 }) := by
  have length : opcodeLength (busValue s.pc s) = 1 := (encode_length (i := .illegal _) h).symm
  have nonzero : busValue s.pc s ≠ 0 := fun zero => by rw [zero] at h; exact absurd h (by decide)
  simp only [fetchInstr, fetchBytes, fetch_of_value_ne_zero nonzero, length, assembleBytes, assemble_of_illegal h]

/-- Settles O6: the halt names the byte and, as `PC` is past it, the address before `PC`. -/
theorem illegalOpcodeHaltsTheCore : Obligations.IllegalOpcodeHaltsTheCore := by
  unfold Obligations.IllegalOpcodeHaltsTheCore
  have halts (op : Byte) (s : State) : exec (.illegal op) s = .next { s with halted := some (op, s.pc - 1) } := rfl
  refine ⟨fun op s _ => halts op s, fun s hr h => ?step⟩
  case step => rw [step_of_running hr, fetchInstr_of_illegal h, halts, BitVec.add_sub_cancel]

/-! ### Every instruction answers (R160, R454, R458) -/

/-- Every instruction stores nothing, stores at the address of its operand, or pushes, and each of them answers. -/
theorem exec_answers (i : Instr) (s : State) : ∃ t, exec i s = .next t := by
  rcases store_kind i with hi | ⟨hi, o, ho⟩ | hi
  · by_cases hq : i.mnemonic = .illegal
    · obtain ⟨op, eq⟩ := exec_of_illegal hq s
      exact ⟨_, eq⟩
    · obtain ⟨n, u, -, -, -, eq⟩ := exec_clocksOnly hi hq s
      exact ⟨_, eq⟩
  · obtain ⟨n, w, u, -, -, eq, -⟩ := exec_storesOperand hi ho s
    exact ⟨_, eq⟩
  · obtain ⟨n, u, -, -, eq, -⟩ := exec_pushed hi s
    exact ⟨_, eq⟩

/-- Settles O7: of the three cases of the system step only the halted one stops. -/
theorem onlyHaltedStatesStop : Obligations.OnlyHaltedStatesStop := by
  unfold Obligations.OnlyHaltedStatesStop
  refine ⟨exec_answers, fun s => ?step⟩
  case step =>
    rw [step]
    cases hh : (hostTurn s).halted with
    | some p => exact .inr ⟨p.1, p.2, rfl, systemStep_of_halted hh⟩
    | none =>
      cases hw : (hostTurn s).video.waiting with
      | true => exact .inl ⟨_, systemStep_of_waiting hh hw⟩
      | false =>
        rw [systemStep_of_running hh hw]
        exact .inl (exec_answers _ _)

end Sys2Proof.Machine
end

