-- ==== Sys2Proof/Proofs/Addressing.lean ====
section
/-! PROOFS. The addressing modes as arithmetic on numbers (R165 to R174). -/

namespace Sys2Proof.Machine

/-! ### Words, pages and the zero page as numbers -/

theorem toNat_wordOf (hi lo : Byte) : (wordOf hi lo).toNat = lo.toNat + 256 * hi.toNat := by
  rw [wordOf, BitVec.toNat_append, ← Nat.shiftLeft_add_eq_or_of_lt lo.isLt, Nat.shiftLeft_eq]
  omega

/-- The page of an address is its high byte (R170). -/
theorem toNat_hiByte (p : Addr) : (hiByte p).toNat = p.toNat / 256 := by
  have hp := p.isLt
  rw [hiByte, BitVec.extractLsb'_toNat, Nat.shiftRight_eq_div_pow]
  omega

theorem crosses_eq (p q : Addr) : crosses p q = decide (p.toNat / 256 ≠ q.toNat / 256) := by
  rw [Bool.eq_iff_iff, decide_eq_true_iff, crosses, bne_iff_ne, ← toNat_hiByte, ← toNat_hiByte, Ne, Ne, BitVec.toNat_inj]

theorem toNat_zeroPage (z : Byte) : (zeroPage z).toNat = z.toNat := BitVec.toNat_setWidth_of_le (by decide)

theorem zeroPage_eq_ofNat (z : Byte) : zeroPage z = BitVec.ofNat 16 z.toNat :=
  BitVec.eq_of_toNat_eq (by rw [toNat_zeroPage, BitVec.toNat_ofNat]; omega)

/-- A 16-bit base and an index register (R170, R171, R174). -/
theorem toNat_add_index (p : Addr) (w : Byte) : (p + w.setWidth 16).toNat = (p.toNat + w.toNat) % 65536 := by
  rw [BitVec.toNat_add, BitVec.toNat_setWidth_of_le (by decide)]

/-- A pointer in page 0, low byte first; its high byte wraps within the page (R173, R174). -/
theorem toNat_zeroPagePointer (z : Byte) (s : State) : (zeroPagePointer z s).toNat =
    (busValue (BitVec.ofNat 16 z.toNat) s).toNat + 256 * (busValue (BitVec.ofNat 16 ((z.toNat + 1) % 256)) s).toNat := by
  rw [zeroPagePointer, toNat_wordOf, zeroPage_eq_ofNat, zeroPage_eq_ofNat, BitVec.toNat_add]
  rfl

/-! ### The modes -/

/-- The pages of a base and of the base plus an index register (R170, R174). -/
theorem crosses_add_index (p : Addr) (w : Byte) :
    crosses (p + w.setWidth 16) p = decide ((p.toNat + w.toNat) % 65536 / 256 ≠ p.toNat / 256) := by
  rw [crosses_eq, toNat_add_index]

/-- Every operand but an immediate is read through the bus at its effective address (R165, R177). -/
theorem readOperand_of_memory {o : Operand} (h : ∀ w, o ≠ .imm w) (s : State) :
    readOperand o s = busRead (effectiveAddress o s) s := by
  cases o with
  | imm w => exact absurd rfl (h w)
  | _ => rfl

/-- An immediate is no store's operand: its cycle count in the tables of the stores is 0, and every store takes some. -/
theorem storesOperand_of_immediate {i : Instr} {b : Byte} (h : i.operand = some (.imm b)) : storesOperand i = false := by
  rcases operand_kind h with ⟨e, he⟩ | ⟨v, hv⟩ | ⟨e, he⟩
  · exact storesOperand_of_read he
  · exact absurd (storeCycles_bounds hv h).1 (by simp [storeCycles])
  · exact absurd (modifyCycles_bounds he h).1 (by simp [modifyCycles])

/-- Only LDX and STX index the zero page with `Y` (R168). -/
theorem mnemonic_of_zeroPageY {i : Instr} {b : Byte} (h : i.operand = some (.zpy b)) :
    i.mnemonic = .ldx ∨ i.mnemonic = .stx := by
  cases i with
  | ldxZpY => exact .inl rfl
  | stxZpY => exact .inr rfl
  | _ => cases h

/-- Settles O35: mode by mode, the effective address is a word, a zero-page address or a zero-page pointer, with or without an
index register. -/
theorem effectiveAddressesOfTheModes : Obligations.EffectiveAddressesOfTheModes := by
  unfold Obligations.EffectiveAddressesOfTheModes
  intro b p s at'
  refine ⟨rfl, rfl, toNat_zeroPage b, toNat_zeroPage (b + s.x), toNat_zeroPage (b + s.y), rfl, toNat_add_index p s.x,
    toNat_add_index p s.y, toNat_zeroPagePointer (b + s.x) s, ⟨?indy, ?crossed⟩, crosses_add_index p s.x,
    crosses_add_index p s.y, rfl, rfl, rfl, rfl, rfl, rfl, fun o h => readOperand_of_memory h s,
    fun i => ⟨storesOperand_of_immediate, mnemonic_of_zeroPageY⟩⟩
  case indy =>
    rw [effectiveAddress, toNat_add_index, toNat_zeroPagePointer]
  case crossed =>
    rw [pageCrossed, crosses_add_index, toNat_zeroPagePointer]

end Sys2Proof.Machine
end

