-- ==== Sys2Proof/Proofs/LoadStoreTransfer.lean ====
section
/-! PROOFS. Loads, stores and transfers (R201 to R212): a load is a read whose effect writes one register with its two flags,
a store one write, a transfer the effect of a load on a byte that is already in a register. -/

namespace Sys2Proof.Machine

/-! ### A register and its flags -/

theorem setA_eq (w : Byte) (s : State) : setA w s = { s with a := w, z := w == 0, n := w.getLsbD 7 } := rfl

theorem setX_eq (w : Byte) (s : State) : setX w s = { s with x := w, z := w == 0, n := w.getLsbD 7 } := rfl

theorem setY_eq (w : Byte) (s : State) : setY w s = { s with y := w, z := w == 0, n := w.getLsbD 7 } := rfl

/-! ### The instructions by their mnemonic -/

section
variable {i : Instr} {q : Mnemonic}

/-- The mnemonic of a read-type instruction fixes its effect, whatever its addressing mode (R177). -/
theorem exec_of_readEffect {e : Byte → State → State} (he : readEffect q = some e) (hi : i.mnemonic = q) (s : State) :
    ∃ o, i.operand = some o ∧
      exec i s = .next (busClock (readCount o s) (e (readOperand o s).1 (readOperand o s).2)) := by
  rw [← hi] at he
  obtain ⟨o, ho⟩ := operand_of_read he
  exact ⟨o, ho, exec_read he ho s⟩

/-- The mnemonic of a store fixes its register, whatever its addressing mode (R204 to R206). -/
theorem exec_of_storeValue {v : State → Byte} (hv : storeValue q = some v) (hi : i.mnemonic = q) (s : State) :
    ∃ o, i.operand = some o ∧
      exec i s = .next (busClock (storeCycles o) (busWrite (effectiveAddress o s) (v s) s)) := by
  rw [← hi] at hv
  obtain ⟨o, ho⟩ := operand_of_store hv
  exact ⟨o, ho, exec_store hv ho s⟩

end

/-! ### The statements -/

/-- Settles O8: the three loads are the read-type instructions whose effects are `setA`, `setX` and `setY`. -/
theorem loadsWriteRegisterAndFlags : Obligations.LoadsWriteRegisterAndFlags := by
  unfold Obligations.LoadsWriteRegisterAndFlags
  intro i s
  simp only [← setA_eq, ← setX_eq, ← setY_eq]
  exact ⟨fun hi => exec_of_readEffect rfl hi s, fun hi => exec_of_readEffect rfl hi s,
    fun hi => exec_of_readEffect rfl hi s⟩

/-- Settles O9: the three stores are one write each, of `A`, `X` and `Y`. -/
theorem storesWriteTheBus : Obligations.StoresWriteTheBus := by
  unfold Obligations.StoresWriteTheBus
  intro i s
  exact ⟨fun hi => exec_of_storeValue rfl hi s, fun hi => exec_of_storeValue rfl hi s,
    fun hi => exec_of_storeValue rfl hi s⟩

/-- Settles O10: all but TXS end with the clock call of 2 cycles in what `setA`, `setX` or `setY` leaves. -/
theorem transfersCopyRegisters : Obligations.TransfersCopyRegisters := by
  unfold Obligations.TransfersCopyRegisters
  intro s
  exact ⟨congrArg (retire 2) (setX_eq s.a s), congrArg (retire 2) (setY_eq s.a s), congrArg (retire 2) (setA_eq s.x s),
    congrArg (retire 2) (setA_eq s.y s), congrArg (retire 2) (setX_eq s.sp s), rfl⟩

end Sys2Proof.Machine
end

