-- ==== Sys2Proof/Proofs/DecimalSum.lean ====
section
/-! PROOFS. ADC and SBC with `D = 1` (R222, R224). On decimal digits the two digit steps are division and remainder by 10, so
that a packed byte holds the sum or difference modulo 100; with a digit above 9 the result is a free value. -/

namespace Sys2Proof.Machine

/-! ### The digits -/

theorem digits_le_of_isBcd {w : Byte} (h : isBcd w = true) : loDigit w ≤ 9 ∧ hiDigit w ≤ 9 := by
  simpa [isBcd] using h

theorem bcdValue_eq (w : Byte) : bcdValue w = hiDigit w * 10 + loDigit w := rfl

/-- The carry of a digit is the quotient by 10 (R222). -/
theorem digitAdd_eq {a m c : Nat} (h : a + m + c < 20) :
    digitAdd a m c = ((a + m + c) % 10, (a + m + c) / 10) := by
  unfold digitAdd
  split <;> exact Prod.ext (by simp only; omega) (by simp only; omega)

/-- The borrow of a digit is the quotient by 10, rounded down, with its sign turned (R224). -/
theorem digitSub_eq {a m b : Int} (lo : -10 ≤ a - m - b) (hi : a - m - b < 10) :
    digitSub a m b = ((a - m - b) % 10, -((a - m - b) / 10)) := by
  unfold digitSub
  split <;> exact Prod.ext (by simp only; omega) (by simp only; omega)

/-! ### The packed byte -/

section
variable {a m : Byte}

/-- `DecimalAdd` is addition modulo 100 with the hundreds carry (R222). -/
theorem decimalAdd_of_isBcd (ha : isBcd a = true) (hm : isBcd m = true) (c : Bool) :
    let total := bcdValue a + bcdValue m + c.toNat
    decimalAdd a m c = (bcdByte (total % 100), decide (100 ≤ total)) := by
  obtain ⟨hal, hah⟩ := digits_le_of_isBcd ha
  obtain ⟨hml, hmh⟩ := digits_le_of_isBcd hm
  have hc := c.toNat_le
  have va := bcdValue_eq a
  have vm := bcdValue_eq m
  have lo : digitAdd (loDigit a) (loDigit m) c.toNat = _ := digitAdd_eq (by omega)
  have hi : digitAdd (hiDigit a) (hiDigit m) ((loDigit a + loDigit m + c.toNat) / 10) = _ := digitAdd_eq (by omega)
  simp only [decimalAdd, bcdByte, lo, hi, Prod.mk.injEq]
  refine ⟨congrArg _ (by omega), ?_⟩
  rw [Bool.eq_iff_iff, beq_iff_eq, decide_eq_true_iff]
  omega

/-- `DecimalSub` is subtraction modulo 100, its carry the absence of a borrow (R224). -/
theorem decimalSub_of_isBcd (ha : isBcd a = true) (hm : isBcd m = true) (borrow : Bool) :
    let total : Int := (bcdValue a : Int) - bcdValue m - borrow.toNat
    decimalSub a m borrow = (bcdByte (total % 100).toNat, decide (0 ≤ total)) := by
  obtain ⟨hal, hah⟩ := digits_le_of_isBcd ha
  obtain ⟨hml, hmh⟩ := digits_le_of_isBcd hm
  have hb := borrow.toNat_le
  have va := bcdValue_eq a
  have vm := bcdValue_eq m
  have lo : digitSub (loDigit a) (loDigit m) borrow.toNat = _ := digitSub_eq (by omega) (by omega)
  have hi : digitSub (hiDigit a) (hiDigit m) (-(((loDigit a : Int) - loDigit m - borrow.toNat) / 10)) = _ :=
    digitSub_eq (by omega) (by omega)
  simp only [decimalSub, bcdByte, lo, hi, ← BitVec.ofInt_natCast, Prod.mk.injEq]
  refine ⟨congrArg _ (by omega), ?_⟩
  rw [Bool.eq_iff_iff, beq_iff_eq, decide_eq_true_iff]
  omega

end

/-! ### `V` of the binary operation -/

/-- `V` of an addition, its sum a number (R221). -/
theorem overflowAdd_binarySum (a m : Byte) (c : Bool) :
    let r := BitVec.ofNat 8 (a.toNat + m.toNat + c.toNat)
    overflowAdd a m (binarySum a m c) = ((a ^^^ r) &&& (m ^^^ r)).getLsbD 7 := by
  simp only [overflowAdd, binarySum_result]

/-- `V` of a subtraction, its difference a number (R223). -/
theorem overflowSub_binaryDiff (a m : Byte) (borrow : Bool) :
    let r := BitVec.ofInt 8 ((a.toNat : Int) - m.toNat - borrow.toNat)
    overflowSub a m (binaryDiff a m borrow) = ((a ^^^ m) &&& (a ^^^ r)).getLsbD 7 := by
  simp only [overflowSub, binaryDiff_result]

/-! ### The effects -/

section
variable {s : State} {m : Byte}

theorem adc_of_decimal (hd : s.d = true) : adc m s =
    if isBcd s.a && isBcd m then
      setSum (decimalAdd s.a m s.c).1 (decimalAdd s.a m s.c).2 (overflowAdd s.a m (binarySum s.a m s.c)) s
    else setFreeSum (overflowAdd s.a m (binarySum s.a m s.c)) s := if_pos hd

theorem sbc_of_decimal (hd : s.d = true) : sbc m s =
    if isBcd s.a && isBcd m then
      setSum (decimalSub s.a m (!s.c)).1 (decimalSub s.a m (!s.c)).2 (overflowSub s.a m (binaryDiff s.a m (!s.c))) s
    else setFreeSum (overflowSub s.a m (binaryDiff s.a m (!s.c))) s := if_pos hd

/-- ADC on decimal digits, its sum a number (R222). -/
theorem adc_of_isBcd (hd : s.d = true) (ha : isBcd s.a = true) (hm : isBcd m = true) :
    let total := bcdValue s.a + bcdValue m + s.c.toNat
    let bin := BitVec.ofNat 8 (s.a.toNat + m.toNat + s.c.toNat)
    adc m s = setSum (bcdByte (total % 100)) (decide (100 ≤ total)) (((s.a ^^^ bin) &&& (m ^^^ bin)).getLsbD 7) s := by
  rw [adc_of_decimal hd, if_pos (Bool.and_eq_true_iff.mpr ⟨ha, hm⟩), decimalAdd_of_isBcd ha hm, overflowAdd_binarySum]

/-- SBC on decimal digits, its difference a number (R224). -/
theorem sbc_of_isBcd (hd : s.d = true) (ha : isBcd s.a = true) (hm : isBcd m = true) :
    let total : Int := (bcdValue s.a : Int) - bcdValue m - (!s.c).toNat
    let bin := BitVec.ofInt 8 ((s.a.toNat : Int) - m.toNat - (!s.c).toNat)
    sbc m s = setSum (bcdByte (total % 100).toNat) (decide (0 ≤ total)) (((s.a ^^^ m) &&& (s.a ^^^ bin)).getLsbD 7) s := by
  rw [sbc_of_decimal hd, if_pos (Bool.and_eq_true_iff.mpr ⟨ha, hm⟩), decimalSub_of_isBcd ha hm, overflowSub_binaryDiff]

/-- ADC with a digit above 9: a free result and `V` as for any operands (R222, log entries 9 and 10). -/
theorem adc_of_not_isBcd (hd : s.d = true) (h : (isBcd s.a && isBcd m) = false) :
    let bin := BitVec.ofNat 8 (s.a.toNat + m.toNat + s.c.toNat)
    adc m s = setFreeSum (((s.a ^^^ bin) &&& (m ^^^ bin)).getLsbD 7) s := by
  rw [adc_of_decimal hd, if_neg (Bool.not_eq_true _ ▸ h), overflowAdd_binarySum]

/-- SBC with a digit above 9: a free result and `V` as for any operands (R224, log entries 9 and 10). -/
theorem sbc_of_not_isBcd (hd : s.d = true) (h : (isBcd s.a && isBcd m) = false) :
    let bin := BitVec.ofInt 8 ((s.a.toNat : Int) - m.toNat - (!s.c).toNat)
    sbc m s = setFreeSum (((s.a ^^^ m) &&& (s.a ^^^ bin)).getLsbD 7) s := by
  rw [sbc_of_decimal hd, if_neg (Bool.not_eq_true _ ▸ h), overflowSub_binaryDiff]

end

/-! ### The statements -/

/-- Settles O13: the read moves neither `A`, `C` nor `D`, and both operands are packed decimals. -/
theorem decimalResultOfValidDigits : Obligations.DecimalResultOfValidDigits := by
  unfold Obligations.DecimalResultOfValidDigits
  intro i s hd ha
  constructor <;> intro hi
  case left =>
    obtain ⟨o, ho, run⟩ := exec_of_readEffect (e := adc) rfl hi s
    refine ⟨o, ho, fun hm => ?_⟩
    rw [run, adc_of_isBcd (by rwa [readOperand_d]) (by rwa [readOperand_a]) hm, readOperand_a, readOperand_c]
    rfl
  case right =>
    obtain ⟨o, ho, run⟩ := exec_of_readEffect (e := sbc) rfl hi s
    refine ⟨o, ho, fun hm => ?_⟩
    rw [run, sbc_of_isBcd (by rwa [readOperand_d]) (by rwa [readOperand_a]) hm, readOperand_a, readOperand_c]
    rfl

/-- Settles O14: the read moves neither `A`, `C`, `D` nor the counter of the free values. -/
theorem decimalResultOfInvalidDigitsIsFree : Obligations.DecimalResultOfInvalidDigitsIsFree := by
  unfold Obligations.DecimalResultOfInvalidDigitsIsFree
  intro i s hd
  constructor <;> intro hi
  case left =>
    obtain ⟨o, ho, run⟩ := exec_of_readEffect (e := adc) rfl hi s
    refine ⟨o, ho, fun h => ?_⟩
    rw [run, adc_of_not_isBcd (by rwa [readOperand_d]) (by rwa [readOperand_a]), setFreeSum, readOperand_a,
      readOperand_c, readOperand_freeCount]
    rfl
  case right =>
    obtain ⟨o, ho, run⟩ := exec_of_readEffect (e := sbc) rfl hi s
    refine ⟨o, ho, fun h => ?_⟩
    rw [run, sbc_of_not_isBcd (by rwa [readOperand_d]) (by rwa [readOperand_a]), setFreeSum, readOperand_a,
      readOperand_c, readOperand_freeCount]
    rfl

end Sys2Proof.Machine
end

