-- ==== Sys2Proof/Proofs/SignedOverflow.lean ====
section
/-! PROOFS. What `V` says of the signed operands, and SBC as ADC of the complement (R220, R221, R223). -/

namespace Sys2Proof.Machine

/-! ### `V` and the signed operands -/

/-- Bit 7 of `(a ^ b) & (c ^ d)`: each pair has two signs. -/
theorem getLsbD_seven_xor_and_xor (a b c d : Byte) : ((a ^^^ b) &&& (c ^^^ d)).getLsbD 7 = true ↔
    ¬(0x80 ≤ a.toNat ↔ 0x80 ≤ b.toNat) ∧ ¬(0x80 ≤ c.toNat ↔ 0x80 ≤ d.toNat) := by
  rw [BitVec.getLsbD_and, BitVec.getLsbD_xor, BitVec.getLsbD_xor]
  simp only [getLsbD_seven, Bool.and_eq_true, bne_iff_ne, ne_eq, decide_eq_decide]

/-- A signed sum leaves -128 to 127 when both operands have one sign and the result byte the other (R221). -/
theorem overflowAdd_eq_signed (a m : Byte) (c : Bool) : overflowAdd a m (binarySum a m c) =
    decide (a.toInt + m.toInt + c.toNat < -128 ∨ 127 < a.toInt + m.toInt + c.toNat) := by
  have ha := a.isLt
  have hm := m.isLt
  have hc := c.toNat_le
  rw [overflowAdd_binarySum, Bool.eq_iff_iff, getLsbD_seven_xor_and_xor, decide_eq_true_iff, BitVec.toNat_ofNat,
    BitVec.toInt_eq_toNat_cond a, BitVec.toInt_eq_toNat_cond m]
  split <;> split <;> omega

/-- A signed difference leaves -128 to 127 when the operands have two signs and the result byte has that of `M` (R223). -/
theorem overflowSub_eq_signed (a m : Byte) (b : Bool) : overflowSub a m (binaryDiff a m b) =
    decide (a.toInt - m.toInt - b.toNat < -128 ∨ 127 < a.toInt - m.toInt - b.toNat) := by
  have ha := a.isLt
  have hm := m.isLt
  have hb := b.toNat_le
  rw [overflowSub_binaryDiff, Bool.eq_iff_iff, getLsbD_seven_xor_and_xor, decide_eq_true_iff, BitVec.toNat_ofInt,
    BitVec.toInt_eq_toNat_cond a, BitVec.toInt_eq_toNat_cond m]
  split <;> split <;> omega

/-! ### SBC as ADC -/

/-- `M ^ 0xFF` is 255 - `M`. -/
theorem toNat_xor_ones (m : Byte) : (m ^^^ 0xFF).toNat = 255 - m.toNat := by
  rw [show (0xFF : Byte) = BitVec.allOnes 8 from rfl, BitVec.xor_allOnes, BitVec.toNat_not]

theorem toNat_not_eq_sub (c : Bool) : (!c).toNat = 1 - c.toNat := by cases c <;> rfl

/-- A difference with borrow and the sum with the complement are 256 apart (R223). -/
theorem ofInt_diff_eq_ofNat_sum (a m : Byte) (c : Bool) : BitVec.ofInt 8 ((a.toNat : Int) - m.toNat - (!c).toNat) =
    BitVec.ofNat 8 (a.toNat + (m ^^^ 0xFF).toNat + c.toNat) := by
  have hm := m.isLt
  have hc := c.toNat_le
  apply BitVec.eq_of_toNat_eq
  rw [toNat_xor_ones, toNat_not_eq_sub, BitVec.toNat_ofInt, BitVec.toNat_ofNat]
  omega

/-- The carry of that sum is the absence of a borrow (R223). -/
theorem carry_sum_complement (a m : Byte) (c : Bool) :
    decide (256 ≤ a.toNat + (m ^^^ 0xFF).toNat + c.toNat) = decide (0 ≤ (a.toNat : Int) - m.toNat - (!c).toNat) := by
  have hm := m.isLt
  have hc := c.toNat_le
  rw [toNat_xor_ones, toNat_not_eq_sub, decide_eq_decide]
  omega

/-- `V` of the difference is `V` of the sum with the complement, whose sign bit is turned (R221, R223). -/
theorem overflow_complement (a m r : Byte) :
    ((a ^^^ r) &&& (m ^^^ 0xFF ^^^ r)).getLsbD 7 = ((a ^^^ m) &&& (a ^^^ r)).getLsbD 7 := by
  have signs : ∀ p q k : Bool, ((p ^^ k) && (q ^^ true ^^ k)) = ((p ^^ q) && (p ^^ k)) := by decide
  simp only [BitVec.getLsbD_and, BitVec.getLsbD_xor]
  exact signs _ _ _

/-- SBC of `M` is ADC of its complement in binary mode (R223). -/
theorem sbc_eq_adc_complement {s : State} (h : s.d = false) (m : Byte) : sbc m s = adc (m ^^^ 0xFF) s := by
  rw [sbc_of_binary h, adc_of_binary h, carry_sum_complement, ← ofInt_diff_eq_ofNat_sum, overflow_complement]

/-- Settles O15: the two overflow expressions by the signs of the operands, SBC by the complement of its operand. -/
theorem overflowIsSignedOverflow : Obligations.OverflowIsSignedOverflow := by
  unfold Obligations.OverflowIsSignedOverflow
  exact ⟨overflowAdd_eq_signed, overflowSub_eq_signed, fun m s h => sbc_eq_adc_complement h m⟩

end Sys2Proof.Machine
end

