-- ==== Sys2Proof/Proofs/CompareIncDec.lean ====
section
/-! PROOFS. The compares (R225 to R228) and the increments and decrements of memory and registers (R229 to R234). -/

namespace Sys2Proof.Machine

/-- The flags of a result and a bus write do not meet: the order of the two is free (R229). -/
theorem busWrite_setNZ (p : Addr) (w r : Byte) (s : State) : busWrite p w (setNZ r s) = setNZ r (busWrite p w s) := by
  unfold busWrite busTouch
  cases target p <;> rfl

/-- INC and DEC have memory forms only (R138). -/
theorem operand_of_incDec {i : Instr} (h : i.mnemonic = .inc ∨ i.mnemonic = .dec) : ∃ o, i.operand = some o := by
  cases i with
  | incZp | incZpX | incAbs | incAbsX | decZp | decZpX | decAbs | decAbsX => exact ⟨_, rfl⟩
  | _ => rcases h with h | h <;> cases h

/-- Settles O16: the three compares are the read-type instructions whose effect is `Compare` of one register. -/
theorem comparesSetFlags : Obligations.ComparesSetFlags := by
  unfold Obligations.ComparesSetFlags
  intro i s
  simp only [← compare_eq]
  exact ⟨fun hi => by simpa only [compareA, readOperand_a] using exec_of_readEffect rfl hi s,
    fun hi => by simpa only [compareX, readOperand_x] using exec_of_readEffect rfl hi s,
    fun hi => by simpa only [compareY, readOperand_y] using exec_of_readEffect rfl hi s⟩

/-- Settles O17: INC and DEC are read-modify-write instructions, and their flags are set before or after the write alike. -/
theorem incDecMemory : Obligations.IncDecMemory := by
  unfold Obligations.IncDecMemory
  intro i s
  constructor <;> intro hi
  case left =>
    obtain ⟨o, ho⟩ := operand_of_incDec (.inl hi)
    refine ⟨o, ho, ?_⟩
    rw [exec_modify (e := incByte) (by rw [hi]; rfl) ho, incByte, busWrite_setNZ]
    rfl
  case right =>
    obtain ⟨o, ho⟩ := operand_of_incDec (.inr hi)
    refine ⟨o, ho, ?_⟩
    rw [exec_modify (e := decByte) (by rw [hi]; rfl) ho, decByte, busWrite_setNZ]
    rfl

/-- Settles O18: each ends with the clock call of 2 cycles in what `setX` or `setY` leaves. -/
theorem incDecRegisters : Obligations.IncDecRegisters := by
  unfold Obligations.IncDecRegisters
  intro s
  exact ⟨congrArg (retire 2) (setX_eq (s.x + 1) s), congrArg (retire 2) (setY_eq (s.y + 1) s),
    congrArg (retire 2) (setX_eq (s.x - 1) s), congrArg (retire 2) (setY_eq (s.y - 1) s)⟩

end Sys2Proof.Machine
end

