-- ==== Sys2Proof/Proofs/LogicShift.lean ====
section
/-! PROOFS. Logic and bit test, shifts and rotates (R241 to R248): the shifts as doubling and halving modulo 256, once for
the memory forms and the accumulator forms. -/

namespace Sys2Proof.Machine

/-! ### Shifts as numbers -/

theorem shiftLeft_one_eq_ofNat (m : Byte) : m <<< 1 = BitVec.ofNat 8 (m.toNat * 2) := by
  apply BitVec.eq_of_toNat_eq
  rw [BitVec.toNat_shiftLeft, Nat.shiftLeft_eq, BitVec.toNat_ofNat]

theorem shiftRight_one_eq_ofNat (m : Byte) : m >>> 1 = BitVec.ofNat 8 (m.toNat / 2) := by
  apply BitVec.eq_of_toNat_eq
  rw [BitVec.toNat_ushiftRight, Nat.shiftRight_one, BitVec.toNat_ofNat]
  have := m.isLt
  omega

theorem setWidth_ofBool_eq_ofNat (c : Bool) : (BitVec.ofBool c).setWidth 8 = BitVec.ofNat 8 c.toNat := by
  cases c <;> rfl

/-- Doubling clears bit 0, so the carry enters it by addition (R247). -/
theorem shiftLeft_one_or_carry (m : Byte) (c : Bool) :
    m <<< 1 ||| (BitVec.ofBool c).setWidth 8 = BitVec.ofNat 8 (m.toNat * 2 + c.toNat) := by
  rw [shiftLeft_one_eq_ofNat, setWidth_ofBool_eq_ofNat, ← BitVec.ofNat_or,
    Nat.mul_comm, ← pow_one 2, Nat.two_pow_add_eq_or_of_lt c.toNat_lt]

/-- Halving clears bit 7, so the carry enters it by addition (R248). -/
theorem shiftRight_one_or_carry (m : Byte) (c : Bool) :
    m >>> 1 ||| (BitVec.ofBool c).setWidth 8 <<< 7 = BitVec.ofNat 8 (m.toNat / 2 + c.toNat * 128) := by
  have hlow : m.toNat / 2 < 2 ^ 7 := by
    have := m.isLt
    omega
  have hcarry : (BitVec.ofBool c).setWidth 8 <<< 7 = BitVec.ofNat 8 (2 ^ 7 * c.toNat) := by cases c <;> rfl
  rw [shiftRight_one_eq_ofNat, hcarry, BitVec.or_comm, ← BitVec.ofNat_or, ← Nat.two_pow_add_eq_or_of_lt hlow,
    Nat.add_comm, Nat.mul_comm]

/-! ### The effect of a shift -/

/-- The four shifts and rotates. -/
def IsShift (q : Mnemonic) : Prop := q = .asl ∨ q = .lsr ∨ q = .rol ∨ q = .ror

/-- The effect of a shift, memory or accumulator: its result and carry as numbers, and the flags (R245 to R248). -/
theorem modifyEffect_of_isShift {q : Mnemonic} (h : IsShift q) :
    modifyEffect q = some fun m s => shifted (shiftResult q m s.c) (shiftCarry q m) s := by
  rcases h with rfl | rfl | rfl | rfl
  case inl => simp only [shiftResult, ← shiftLeft_one_eq_ofNat]; rfl
  case inr.inl => simp only [shiftResult, ← shiftRight_one_eq_ofNat]; rfl
  case inr.inr.inl => simp only [shiftResult, ← shiftLeft_one_or_carry]; rfl
  case inr.inr.inr => simp only [shiftResult, ← shiftRight_one_or_carry]; rfl

/-- The flags of a shift and its bus write do not meet: the order of the two is free (R240). -/
theorem busWrite_shifted (p : Addr) (w r : Byte) (c : Bool) (s : State) :
    busWrite p w (shifted r c s).2 = (shifted r c (busWrite p w s)).2 := by
  unfold busWrite busTouch
  cases target p <;> rfl

/-- The accumulator forms apply the effect to `A` and make no bus access (R164, R240). -/
theorem exec_accumulator {i : Instr} {e : Byte → State → Byte × State}
    (hi : i = .aslAcc ∨ i = .lsrAcc ∨ i = .rolAcc ∨ i = .rorAcc) (he : modifyEffect i.mnemonic = some e) (s : State) :
    exec i s = accOp 2 e s := by
  rcases hi with rfl | rfl | rfl | rfl <;> cases he <;> rfl

/-! ### The statements -/

/-- Settles O19: AND, ORA, EOR and BIT are read-type instructions, the first three `setA` of their result. -/
theorem logicAndBitTest : Obligations.LogicAndBitTest := by
  unfold Obligations.LogicAndBitTest
  intro i s
  exact ⟨fun hi => by simpa only [andA, setA_eq, readOperand_a] using exec_of_readEffect rfl hi s,
    fun hi => by simpa only [oraA, setA_eq, readOperand_a] using exec_of_readEffect rfl hi s,
    fun hi => by simpa only [eorA, setA_eq, readOperand_a] using exec_of_readEffect rfl hi s,
    fun hi => by simpa only [bitTest, readOperand_a] using exec_of_readEffect rfl hi s⟩

/-- Settles O20: the effect of a shift, written to the address it was read from or to `A`. -/
theorem shiftsAndRotates : Obligations.ShiftsAndRotates := by
  unfold Obligations.ShiftsAndRotates
  constructor
  case left =>
    intro i o s hi ho
    rw [exec_modify (modifyEffect_of_isShift hi) ho, busWrite_shifted, readOperand_c]
    rfl
  case right =>
    intro i s hi
    have shift : IsShift i.mnemonic := by
      rcases hi with rfl | rfl | rfl | rfl <;> simp [IsShift, Instr.mnemonic]
    rw [exec_accumulator hi (modifyEffect_of_isShift shift)]
    rfl

end Sys2Proof.Machine
end

