-- ==== Sys2Proof/Proofs/ControlFlow.lean ====
section
/-! PROOFS. The branches (R262 to R270), once for a flag that must be set and once for one that must be clear, and the
subroutine call and return at every stack pointer (R272, R273). -/

namespace Sys2Proof.Machine

/-! ### Branches -/

/-- The target as a sum of numbers: unsigned `nxt`, signed `d` (R175). -/
theorem branchTarget_eq_ofInt (nxt : Addr) (d : Byte) :
    branchTarget nxt d = BitVec.ofInt 16 ((nxt.toNat : Int) + d.toInt) := by
  rw [BitVec.ofInt_add, BitVec.ofInt_natCast, BitVec.ofNat_toNat, BitVec.setWidth_eq, ← BitVec.signExtend, branchTarget]

/-- A taken branch takes one cycle more, and one more again into another page (R262). -/
theorem branch_taken (d : Byte) (s : State) :
    let tgt : Addr := BitVec.ofInt 16 ((s.pc.toNat : Int) + d.toInt)
    branch true d s = .next (busClock (if tgt.toNat / 256 ≠ s.pc.toNat / 256 then 4 else 3) { s with pc := tgt }) := by
  simp only [branch, retire, if_true, branchTarget_eq_ofInt, crosses_eq, decide_eq_true_eq]

/-- Settles O21: four branches ask for a set flag, four for a clear one, and a taken branch does not depend on which. -/
theorem branchesTestOneFlag : Obligations.BranchesTestOneFlag := by
  unfold Obligations.BranchesTestOneFlag
  intro d s tgt taken notTaken
  have onSet (flag : Bool) : branch flag d s = if flag = true then taken else notTaken := by
    cases flag
    case false => rfl
    case true => exact branch_taken d s
  have onClear (flag : Bool) : branch (!flag) d s = if flag = false then taken else notTaken := by
    simpa only [Bool.not_eq_true'] using onSet (!flag)
  exact ⟨onClear s.c, onSet s.c, onSet s.z, onSet s.n, onClear s.z, onClear s.n, onClear s.v, onSet s.v⟩

/-! ### Subroutines -/

/-- A bus write does not look at `SP` and does not move it. -/
theorem busWrite_with_sp (p : Addr) (w k : Byte) (s : State) :
    busWrite p w { s with sp := k } = { busWrite p w s with sp := k } := by
  unfold busWrite busTouch
  cases target p <;> rfl

/-- Two pushes, high byte first (R106, R178). -/
theorem pushAddr_eq (w : Addr) (s : State) : pushAddr w s =
    { busWrite (stackAddr (s.sp - 1)) (loByte w) (busWrite (stackAddr s.sp) (hiByte w) s) with sp := s.sp - 2 } := by
  have two : s.sp - 1 - 1 = s.sp - 2 := by bv_omega
  simp only [pushAddr, push, busWrite_with_sp, busWrite_sp, two]

/-- Settles O23: the call pushes an address in two bus writes, the return pulls one in two bus reads. -/
theorem jsrPushesAndRtsPulls : Obligations.JsrPushesAndRtsPulls := by
  unfold Obligations.JsrPushesAndRtsPulls
  refine fun p s => ⟨?jsr, ?rts⟩
  case jsr => simp only [exec, execJsr, retire, pushAddr_eq]
  case rts => simp only [exec, execRts, retire, pullAddr_eq]

end Sys2Proof.Machine
end

