-- ==== Sys2Proof/Proofs/StackAndFlags.lean ====
section
/-! PROOFS. The stack, flag and system instructions (R281 to R294) at every stack pointer: pushes as bus writes, pulls as bus
reads, the break and the return from it each as one state update. -/

namespace Sys2Proof.Machine

/-! ### Pushes and pulls -/

/-- The stack page and `SP` carry nowhere (R23). -/
theorem stackAddr_toNat (sp : Byte) : (stackAddr sp).toNat = 0x0100 + sp.toNat := by
  unfold stackAddr Config.stackPage
  bv_omega

/-- Settles O25: a push is one bus write and the step of `SP`, and the status byte is pushed with bits 5 and 4 set. -/
theorem pushesWriteTheStack : Obligations.PushesWriteTheStack := by
  unfold Obligations.PushesWriteTheStack
  intro s
  refine ⟨stackAddr_toNat s.sp, ?pha, ?php⟩
  case pha => simp only [exec, execPha, retire, push, busWrite_sp]
  case php => simp only [exec, execPhp, retire, push, busWrite_sp, statusForPush_eq]

/-- Settles O26: a pull is one bus read and the step of `SP`; the byte goes to `A` with its flags, or to all flags. -/
theorem pullsReadTheStack : Obligations.PullsReadTheStack := by
  unfold Obligations.PullsReadTheStack
  intro s m
  refine ⟨?pla, ?plp⟩
  case pla => simp only [exec, execPla, retire, pull_eq, setA_eq, m]
  case plp => simp only [exec, execPlp, retire, pull_eq, loadStatus, m]

/-! ### Flags -/

/-- Settles O27: each instruction is the clock call of 2 cycles after its one assignment. -/
theorem flagInstructionsAndNop : Obligations.FlagInstructionsAndNop := by
  unfold Obligations.FlagInstructionsAndNop
  exact fun s => ⟨rfl, rfl, rfl, rfl, rfl, rfl, rfl, rfl⟩

/-! ### The break and the return from it -/

/-- Pushing an address changes no flag, so that the status byte pushed after it is that of before (R293). -/
theorem statusForPush_pushAddr (w : Addr) (s : State) : statusForPush (pushAddr w s) = statusForPush s := by
  simp only [statusForPush, statusWord, pushAddr_n, pushAddr_v, pushAddr_b, pushAddr_d, pushAddr_i, pushAddr_z, pushAddr_c]

/-- An address and a byte pushed below it are three bus writes (R106, R178). -/
theorem push_pushAddr_eq (w : Byte) (ret : Addr) (s : State) : push w (pushAddr ret s) =
    { busWrite (stackAddr (s.sp - 2)) w
        (busWrite (stackAddr (s.sp - 1)) (loByte ret) (busWrite (stackAddr s.sp) (hiByte ret) s)) with sp := s.sp - 3 } := by
  have three : s.sp - 2 - 1 = s.sp - 3 := by bv_omega
  simp only [push, pushAddr_eq, busWrite_with_sp, three]

/-- The word at the BRK vector depends on the cartridge store alone (R84, R96). -/
theorem busRead16_brkVector_of_cart {s t : State} (h : t.cart = s.cart) :
    busRead16 Config.brkVector t = (wordOf (busValue 0xFFFF#16 s) (busValue 0xFFFE#16 s), t) := by
  have lo : busValue 0xFFFE#16 t = busValue 0xFFFE#16 s := busValue_of_cart (by decide) h
  have hi : busValue 0xFFFF#16 t = busValue 0xFFFF#16 s := busValue_of_cart (by decide) h
  have ⟨touchLo, touchHi⟩ := brkVector_touch t
  have next : Config.brkVector + 1 = 0xFFFF#16 := rfl
  simp only [busRead16, busRead, next, touchLo, touchHi, lo, hi]

/-- The break in one state update: three bus writes, then `SP`, `B`, `I` and `PC` (R293). The pushes do not see `B` set. -/
theorem takeBreak_eq (ret : Addr) (s : State) : takeBreak ret s =
    { busWrite (stackAddr (s.sp - 2)) (statusForPush s)
        (busWrite (stackAddr (s.sp - 1)) (loByte ret) (busWrite (stackAddr s.sp) (hiByte ret) s)) with
      sp := s.sp - 3, b := true, i := true
      pc := wordOf (busValue 0xFFFF#16 s) (busValue 0xFFFE#16 s) } := by
  have early : { s with b := true } = s.withB true := rfl
  have cart : (push (statusForPush s) (pushAddr ret s)).cart = s.cart := (((Pushed.zero s).pushAddr ret).push _).cart
  simp only [takeBreak, early, pushAddr_withB, push_withB, statusForPush_withB, statusForPush_pushAddr]
  rw [busRead16_brkVector_of_cart (t := { (push (statusForPush s) (pushAddr ret s)).withB true with i := true }) cart,
    push_pushAddr_eq]
  rfl

/-- Settles O28: the break with the address after the skipped byte, `PC + 1`. -/
theorem brkTakesTheVector : Obligations.BrkTakesTheVector := by
  unfold Obligations.BrkTakesTheVector
  intro s ret s1 s2 s3
  simp only [exec, execBrk, retire, takeBreak_eq, statusForPush_eq, ret, s1, s2, s3]

/-- Settles O29: the return is the status byte and the address above it, in one state update. -/
theorem rtiRestoresStatusAndPc : Obligations.RtiRestoresStatusAndPc := by
  unfold Obligations.RtiRestoresStatusAndPc
  intro s m
  simp only [exec, execRti, retire, returnFromBreak_eq, loadStatus, m]

end Sys2Proof.Machine
end

