-- ==== Sys2Proof/Proofs/VideoRegisters.lean ====
section
/-! PROOFS. The read registers of the video chip and the I/O chip (R349, R350, R423, R428), the video write registers that
store a byte or defer it (R313 to R331), and the playfield's bits (R324). -/

namespace Sys2Proof.Machine

/-! ### Reads -/

section
variable {p : Addr}

/-- A bus read at a video address is the read of its register and changes nothing (R82, R109). -/
theorem busRead_of_video {r : BitVec 6} (h : target p = .video r) (s : State) :
    busRead p s = (videoRead r s.video, s) := by
  have touch : busTouch p s = s := busTouch_of_cold fun off e => by cases h.symm.trans e
  simp only [busRead, touch, busValue, h]

/-- A bus read at an I/O address is the read of its register and changes nothing (R82, R109). -/
theorem busRead_of_io {r : BitVec 5} (h : target p = .io r) (s : State) : busRead p s = (ioRead r s.io, s) := by
  have touch : busTouch p s = s := busTouch_of_cold fun off e => by cases h.symm.trans e
  simp only [busRead, touch, busValue, h]

end

/-- The two latches weigh 128 and 64 (R349). -/
theorem latchByte_eq_ofNat (hi lo : Bool) : latchByte hi lo = BitVec.ofNat 8 (hi.toNat * 128 + lo.toNat * 64) := by
  cases hi <;> cases lo <;> rfl

/-- The numbers between the collision registers and INPT4, and those after INPT5, read 0 (R349). -/
theorem videoRead_of_unmapped {r : BitVec 6} (h : 8 ≤ r.toNat ∧ r.toNat ≤ 11 ∨ 14 ≤ r.toNat) (s : Video) :
    videoRead r s = 0 := by
  unfold videoRead
  split
  case h_11 => rfl
  all_goals omega

/-- INTIM is the counter divided by the prescale (R428). -/
theorem intim_eq_div (t : Io) : t.intim = BitVec.ofNat 8 (t.timerRaw / 2 ^ t.prescale.shift % 256) := by
  apply BitVec.eq_of_toNat_eq
  rw [Io.intim, Nat.shiftRight_eq_div_pow, BitVec.toNat_ofNat, BitVec.toNat_ofNat, Nat.mod_mod]

/-- The numbers of the I/O chip that are not SWCHA, SWCHB or INTIM read 0 (R423). -/
theorem ioRead_of_unmapped {r : BitVec 5} (h0 : r ≠ 0x00) (h2 : r ≠ 0x02) (h4 : r ≠ 0x04) (t : Io) : ioRead r t = 0 := by
  unfold ioRead
  split
  case h_1 e => exact absurd (BitVec.eq_of_toNat_eq e) h0
  case h_2 e => exact absurd (BitVec.eq_of_toNat_eq e) h2
  case h_3 e => exact absurd (BitVec.eq_of_toNat_eq e) h4
  case h_4 => rfl

/-- Settles O39: a bus read is the register's, a collision register is two weighted latches, and INTIM is a division. -/
theorem deviceReadRegisters : Obligations.DeviceReadRegisters := by
  unfold Obligations.DeviceReadRegisters
  refine ⟨fun p s => ⟨fun r h => busRead_of_video h s, fun r h => busRead_of_io h s⟩, ?video, ?io⟩
  case video =>
    simp only [← latchByte_eq_ofNat]
    exact fun s => ⟨rfl, rfl, rfl, rfl, rfl, rfl, rfl, rfl, rfl, rfl, fun r hr => videoRead_of_unmapped hr s⟩
  case io => exact fun t => ⟨rfl, rfl, intim_eq_div t, fun r h0 h2 h4 => ioRead_of_unmapped h0 h2 h4 t⟩

/-! ### Writes -/

/-- The motion offset is the upper nibble, read as a two's complement number (R330). -/
theorem motionOffset_eq_ite (w : Byte) :
    motionOffset w = if w.toNat / 16 < 8 then (w.toNat / 16 : Int) else (w.toNat / 16 : Int) - 16 := by
  have nibble : (w.extractLsb' 4 4).toNat = w.toNat / 16 := by
    have := w.isLt
    rw [BitVec.extractLsb'_toNat, Nat.shiftRight_eq_div_pow]
    omega
  rw [motionOffset, BitVec.toInt_eq_toNat_cond, nibble]
  split <;> split <;> omega

/-- Settles O40: each register's effect is its row of the register file, with the motion offset as a number. -/
theorem videoLatchRegisters : Obligations.VideoLatchRegisters := by
  unfold Obligations.VideoLatchRegisters
  simp only [← motionOffset_eq_ite]
  exact fun w s => ⟨rfl, rfl, rfl, rfl, rfl, rfl, rfl, rfl, rfl, rfl, rfl, rfl, rfl, rfl, rfl, rfl, rfl, rfl, rfl, rfl, rfl,
    ⟨rfl, rfl, rfl, rfl, rfl⟩, rfl, rfl, rfl⟩

/-- Settles O42: the rows of GRP0, GRP1 and ENABL in the register file are `writeGrp` and `writeEnabl`, which branch on the
delay latch of their own object. -/
theorem shapeAndEnableWritesHonourDelay : Obligations.ShapeAndEnableWritesHonourDelay := by
  unfold Obligations.ShapeAndEnableWritesHonourDelay
  exact fun w s => ⟨rfl, rfl, rfl⟩

/-! ### The playfield -/

section
variable (s : Video) {j : Nat}

/-- Columns 0 to 3 show PF0, bit 4 first (R324). -/
theorem pfLeft_pf0 (h : j < 4) : pfLeft s j = s.pf0.getLsbD (4 + j) := if_pos h

/-- Columns 4 to 11 show PF1, bit 7 first (R324). -/
theorem pfLeft_pf1 (h : j < 8) : pfLeft s (4 + j) = s.pf1.getLsbD (7 - j) := by
  rw [pfLeft, if_neg (by omega), if_pos (by omega), Nat.sub_add_eq]

/-- Columns 12 to 19 show PF2, bit 0 first (R324). -/
theorem pfLeft_pf2 : pfLeft s (12 + j) = s.pf2.getLsbD j := by
  rw [pfLeft, if_neg (by omega), if_neg (by omega), Nat.add_sub_cancel_left]

theorem pfPattern_left (h : j < 20) : pfPattern s j = pfLeft s j := if_pos h

variable {s}

/-- With the mirror bit clear the right half repeats the left (R324). -/
theorem pfPattern_right_of_repeat (hr : s.ctrlpf.getLsbD 0 = false) (h : j < 20) :
    pfPattern s (20 + j) = pfPattern s j := by
  rw [pfPattern_left s h, pfPattern, if_neg (by omega), hr, Nat.add_sub_cancel_left]
  rfl

/-- With the mirror bit set the right half is the left half backwards (R324). -/
theorem pfPattern_right_of_mirror (hm : s.ctrlpf.getLsbD 0 = true) (h : j < 20) :
    pfPattern s (20 + j) = pfPattern s (19 - j) := by
  rw [pfPattern_left s (j := 19 - j) (by omega), pfPattern, if_neg (by omega), hm, if_pos rfl, Nat.sub_add_eq]

/-- A right half that is the left half backwards makes the whole symmetric. -/
theorem pfPattern_symmetric_of_mirror (hm : s.ctrlpf.getLsbD 0 = true) (h : j < 40) :
    pfPattern s (39 - j) = pfPattern s j := by
  obtain left | ⟨i, hi, rfl⟩ : j < 20 ∨ ∃ i < 20, j = 20 + i := by
    by_cases left : j < 20
    · exact .inl left
    · exact .inr ⟨j - 20, by omega, by omega⟩
  · have mirrored := pfPattern_right_of_mirror hm (j := 19 - j) (by omega)
    rwa [show 20 + (19 - j) = 39 - j by omega, show 19 - (19 - j) = j by omega] at mirrored
  · rw [pfPattern_right_of_mirror hm hi, Nat.sub_add_eq]

end

/-- Settles O43: the left half register by register, then the right half as its repeat or its mirror image. -/
theorem playfieldPatternRepeatsOrMirrors : Obligations.PlayfieldPatternRepeatsOrMirrors := by
  unfold Obligations.PlayfieldPatternRepeatsOrMirrors
  refine fun s => ⟨fun j hj => ?pf0, fun j hj => ?pf1, fun j hj => ?pf2, fun hr j hj => pfPattern_right_of_repeat hr hj,
    fun hm => ⟨fun j hj => pfPattern_right_of_mirror hm hj, fun j hj => pfPattern_symmetric_of_mirror hm hj⟩⟩
  case pf0 => rw [pfPattern_left s (by omega), pfLeft_pf0 s hj]
  case pf1 => rw [pfPattern_left s (by omega), pfLeft_pf1 s hj]
  case pf2 => rw [pfPattern_left s (by omega), pfLeft_pf2]

end Sys2Proof.Machine
end

