-- ==== Sys2Proof/Proofs/Pixels.lean ====
section
/-! PROOFS. When an object's pixel is on (R376 to R378), and the colour the compositor takes of those that are (R379, R380). -/

namespace Sys2Proof.Machine

/-! ### The objects -/

section
variable (s : Video)

/-- The scale by the low three bits of NUSIZ (R377). -/
theorem scale_eq_ite (p : Player) : scale s p =
    if (s.nusiz.get p).toNat % 8 = 5 then 2 else if (s.nusiz.get p).toNat % 8 = 7 then 4 else 1 := by
  have size : ((s.nusiz.get p).extractLsb' 0 3).toNat = (s.nusiz.get p).toNat % 8 := BitVec.extractLsb'_toNat ..
  simp only [scale, size]
  split
  case h_1 five => rw [if_pos five]
  case h_2 seven => rw [if_neg (by omega), if_pos seven]
  case h_3 five seven => rw [if_neg five, if_neg seven]

/-- The width of a missile or of the ball by bits 4 and 5 of its register (R318, R321). -/
theorem barWidth_eq_pow (w : Byte) : barWidth w = 2 ^ (w.toNat / 16 % 4) := by
  rw [barWidth, Nat.one_shiftLeft, BitVec.extractLsb'_toNat, Nat.shiftRight_eq_div_pow]

/-- A player is on where its shape is, within eight scaled pixels of its left edge (R378). -/
theorem playerOn_eq (p : Player) : playerOn s p =
    (decide (0 ≤ distance s p.sprite ∧ distance s p.sprite < 8 * (scale s p : Int)) &&
      if s.refp.get p then (s.grpActive.get p).getLsbD ((distance s p.sprite).toNat / scale s p)
      else (s.grpActive.get p).getLsbD (7 - (distance s p.sprite).toNat / scale s p)) := by
  simp only [playerOn, ← Bool.decide_and, decide_eq_true_eq]
  split
  case isTrue within => rw [decide_eq_true within, Bool.true_and]
  case isFalse outside => rw [decide_eq_false outside, Bool.false_and]

/-- A missile or the ball is on within its width of its left edge, where it is enabled (R378). -/
theorem barOn_eq (o : Obj) (enabled : Bool) (w : Byte) : barOn s o enabled (barWidth w) =
    (enabled && decide (0 ≤ distance s o ∧ distance s o < 2 ^ (w.toNat / 16 % 4))) := by
  rw [barOn, barWidth_eq_pow, Nat.cast_pow, Nat.cast_ofNat, Bool.and_assoc, ← Bool.decide_and]

end

/-- Settles O44: the players by their scale, the missiles and the ball by their width, the playfield by definition. -/
theorem objectPixelTests : Obligations.ObjectPixelTests := by
  unfold Obligations.ObjectPixelTests
  intro s left d sc shape run
  have player (p : Player) : playerOn s p =
      (decide (0 ≤ d p.sprite ∧ d p.sprite < 8 * (sc (s.nusiz.get p) : Int)) &&
        shape (s.refp.get p) (s.grpActive.get p) ((d p.sprite).toNat / sc (s.nusiz.get p))) := by
    have size : scale s p = sc (s.nusiz.get p) := scale_eq_ite s p
    rw [playerOn_eq, size]
    rfl
  exact ⟨player .p0, player .p1, barOn_eq s .m0 _ _, barOn_eq s .m1 _ _, barOn_eq s .bl _ _, rfl⟩

/-! ### The compositor -/

/-- The colour of the first layer of a list that is on, the background's where none is. -/
def firstColour (s : Video) : List Layer → Byte
  | [] => s.colubk
  | k :: ks => if layerOn s k then layerColour s k else firstColour s ks

theorem composite_eq_firstColour (s : Video) : composite s = firstColour s (priority s) := by
  unfold composite
  induction priority s with
  | nil => rfl
  | cons k ks ih =>
    rw [List.find?_cons, firstColour, ← ih]
    cases layerOn s k <;> rfl

/-- Settles O45: the colour is that of the first layer on in the order CTRLPF bit 2 selects. -/
theorem compositePriority : Obligations.CompositePriority := by
  unfold Obligations.CompositePriority
  refine fun s => ⟨fun objectsFirst => ?objects, fun playfieldFirst => ?playfield⟩
  case objects => rw [composite_eq_firstColour, priority, objectsFirst]; rfl
  case playfield => rw [composite_eq_firstColour, priority, playfieldFirst]; rfl

end Sys2Proof.Machine
end

