-- ==== Sys2Proof/Proofs/Ticks.lean ====
section
/-! PROOFS. The pixel tick and its runs: what a tick emits, counts and commits (R370 to R375, R386), and the frame (R372). -/

namespace Sys2Proof.Machine

/-! ### One tick -/

section
variable (fvl : Nat) (s : Video)

/-- The active area: the visible columns of the visible lines (R370). -/
theorem active_eq_decide : active fvl s = decide (68 ≤ s.hpos ∧ fvl ≤ s.vpos ∧ s.vpos < fvl + 192) := by
  rw [active, inBand, ← Bool.decide_and, ← Bool.decide_and]

@[simp] theorem advance_events : (advance s).events = s.events := by
  simp only [advance, lineWrap]; split <;> simp

@[simp] theorem advance_cx : (advance s).cx = s.cx := by
  simp only [advance, lineWrap]; split <;> simp

/-- A tick emits its pixel in the active area only, from the counters before they count (R371, R386). -/
theorem tick_events : (tick fvl s).events =
    if active fvl s then .setPixel (s.hpos - 68) (s.vpos - fvl) (composite s) :: s.events else s.events := by
  rw [tick, advance_events, renderPixel]
  split <;> rfl

/-- A tick updates the collision latches in the active area only (R371, R381). -/
theorem tick_cx : (tick fvl s).cx = if active fvl s then updateCollisions s else s.cx := by
  rw [tick, advance_cx, renderPixel]
  split <;> rfl

/-- What no tick touches: everything but counters, WSYNC latch, events, collision latches, shapes and enables (R371). -/
theorem tick_frame : tick fvl s = { s with
    hpos := (tick fvl s).hpos, vpos := (tick fvl s).vpos, wsyncLatch := (tick fvl s).wsyncLatch
    events := (tick fvl s).events, cx := (tick fvl s).cx
    grpActive := (tick fvl s).grpActive, grpPending := (tick fvl s).grpPending
    enablActive := (tick fvl s).enablActive, enablPending := (tick fvl s).enablPending } := by
  apply Video.ext <;> simp

end

/-- Settles O46: the events by the active area, the counters with or without the line wrap, and the frame of a tick. -/
theorem tickRendersThenCounts : Obligations.TickRendersThenCounts := by
  unfold Obligations.TickRendersThenCounts
  refine fun fvl s hhpos hvpos => ⟨?events, fun inside => ?counts, fun last => ?wraps, tick_frame fvl s⟩
  case events => simp only [tick_events, active_eq_decide, decide_eq_true_eq]
  case counts =>
    have no_wrap : s.hpos + 1 ≠ 228 := by omega
    rw [tick_hpos, tick_vpos, tick_wsyncLatch, if_neg no_wrap, if_neg no_wrap, if_neg no_wrap]
    exact ⟨rfl, rfl, rfl⟩
  case wraps =>
    have wrap : s.hpos + 1 = 228 := by omega
    rw [tick_hpos, tick_vpos, tick_wsyncLatch, if_pos wrap, if_pos wrap, if_pos wrap]
    exact ⟨rfl, by split <;> omega, rfl⟩

/-! ### Pending shapes and enables -/

section
variable (p q : Player) (s : Video)

@[simp] theorem commitShape_grpActive_get : (commitShape p s).grpActive.get q =
    if q = p ∧ s.grpPending.get p = true then s.grpWritten.get p else s.grpActive.get q := by
  unfold commitShape
  split <;> simp [*]

@[simp] theorem commitShape_grpPending_get : (commitShape p s).grpPending.get q =
    if q = p then false else s.grpPending.get q := by
  unfold commitShape
  split
  case isTrue => simp
  case isFalse clear =>
    split
    case isTrue same => rw [same, Bool.eq_false_of_not_eq_true clear]
    case isFalse => rfl

@[simp] theorem commitShape_grpWritten : (commitShape p s).grpWritten = s.grpWritten := by
  unfold commitShape; split <;> rfl

@[simp] theorem commitShape_enablWritten : (commitShape p s).enablWritten = s.enablWritten := by
  unfold commitShape; split <;> rfl

@[simp] theorem commitShape_enablActive : (commitShape p s).enablActive = s.enablActive := by
  unfold commitShape; split <;> rfl

@[simp] theorem commitShape_enablPending : (commitShape p s).enablPending = s.enablPending := by
  unfold commitShape; split <;> rfl

@[simp] theorem commitEnable_grpActive : (commitEnable s).grpActive = s.grpActive := by
  unfold commitEnable; split <;> rfl

@[simp] theorem commitEnable_grpPending : (commitEnable s).grpPending = s.grpPending := by
  unfold commitEnable; split <;> rfl

@[simp] theorem commitEnable_enablActive : (commitEnable s).enablActive =
    if s.enablPending then s.enablWritten else s.enablActive := by
  unfold commitEnable; split <;> rfl

@[simp] theorem commitEnable_enablPending : (commitEnable s).enablPending = false := by
  unfold commitEnable
  split
  case isTrue => rfl
  case isFalse clear => exact Bool.eq_false_of_not_eq_true clear

/-- `CommitPending` shows each player's pending shape and clears the marks (R375). -/
theorem commitPending_shapes :
    (commitPending s).grpActive.get p = (if s.grpPending.get p then s.grpWritten.get p else s.grpActive.get p) ∧
      (commitPending s).grpPending.get p = false := by
  cases p <;> simp [commitPending]

/-- `CommitPending` shows the ball's pending enable and clears the mark (R375). -/
theorem commitPending_enable :
    (commitPending s).enablActive = (if s.enablPending then s.enablWritten else s.enablActive) ∧
      (commitPending s).enablPending = false := by
  simp [commitPending]

end

/-- Shapes, enables and their marks are the same in both states. -/
def SameShapes (s t : Video) : Prop :=
  t.grpActive = s.grpActive ∧ t.grpPending = s.grpPending ∧ t.enablActive = s.enablActive ∧
    t.enablPending = s.enablPending

/-- A tick inside a line commits nothing (R374). -/
theorem tick_sameShapes (fvl : Nat) {s : Video} (inside : s.hpos + 1 < 228) : SameShapes s (tick fvl s) := by
  have no_wrap : (renderPixel fvl s).hpos + 1 ≠ 228 := by rw [renderPixel_hpos]; omega
  rw [tick, advance, if_neg no_wrap]
  exact ⟨renderPixel_grpActive fvl s, renderPixel_grpPending fvl s, renderPixel_enablActive fvl s,
    renderPixel_enablPending fvl s⟩

theorem ticks_sameShapes (fvl k : Nat) {s : Video} (inside : s.hpos + k < 228) : SameShapes s (ticks fvl k s) := by
  induction k generalizing s with
  | zero => exact ⟨rfl, rfl, rfl, rfl⟩
  | succ k ih =>
    have next : (tick fvl s).hpos = s.hpos + 1 := (tick_hpos fvl s).trans (if_neg (by omega))
    obtain ⟨ga, gp, ea, ep⟩ := tick_sameShapes fvl (s := s) (by omega)
    obtain ⟨ga', gp', ea', ep'⟩ := ih (s := tick fvl s) (by omega)
    exact ⟨ga'.trans ga, gp'.trans gp, ea'.trans ea, ep'.trans ep⟩

/-- The last tick of a line commits what is pending as the rendering left it (R374, R375). -/
theorem tick_of_last (fvl : Nat) {s : Video} (last : s.hpos = 227) : tick fvl s = lineWrap (renderPixel fvl s) :=
  if_pos (by rw [renderPixel_hpos, last])

/-- Settles O47: no tick short of the wrap touches a shape, and the wrap is `CommitPending` of the rendered state, whose shapes
are those before the tick. -/
theorem pendingShapesCommitAtLineStart : Obligations.PendingShapesCommitAtLineStart := by
  unfold Obligations.PendingShapesCommitAtLineStart
  refine ⟨fun fvl k s inside => ticks_sameShapes fvl k inside, fun fvl s last => ?wrap⟩
  case wrap =>
    simp only [tick_of_last fvl last, lineWrap, commitPending_shapes, commitPending_enable, renderPixel_grpActive,
      renderPixel_grpPending, renderPixel_grpWritten, renderPixel_enablActive, renderPixel_enablPending,
      renderPixel_enablWritten, implies_true, and_self]

/-! ### The frame -/

/-- The line counter after `k` ticks: the count of pixels of the frame, divided by the length of a line (R372). -/
theorem ticks_vpos (fvl k : Nat) {s : Video} (hhpos : s.hpos < 228) (hvpos : s.vpos < 262) :
    (ticks fvl k s).vpos = (s.vpos * 228 + s.hpos + k) / 228 % 262 := by
  induction k generalizing s with
  | zero => rw [ticks_zero]; omega
  | succ k ih =>
    have pixel := tick_hpos fvl s
    have line := tick_vpos fvl s
    by_cases wrap : s.hpos + 1 = 228
    · rw [if_pos wrap] at pixel line
      rw [ticks_succ, ih (by omega) (by split at line <;> omega), pixel, line]
      split <;> omega
    · rw [if_neg wrap] at pixel line
      rw [ticks_succ, ih (by omega) (by omega), pixel, line]
      omega

/-- Settles O49: the two counters after `k` ticks are remainder and quotient of one count of pixels. -/
theorem frameIs262LinesOf228 : Obligations.FrameIs262LinesOf228 := by
  unfold Obligations.FrameIs262LinesOf228
  intro fvl s hhpos hvpos
  refine ⟨fun k => ⟨?pixel, ticks_vpos fvl k hhpos hvpos⟩, ?frame_pixel, ?frame_line⟩
  case pixel => rw [ticks_hpos fvl k hhpos]; omega
  case frame_pixel => rw [ticks_hpos fvl _ hhpos]; omega
  case frame_line => rw [ticks_vpos fvl _ hhpos hvpos]; omega

end Sys2Proof.Machine
end

