-- ==== Sys2Proof/Proofs/ClockCall.lean ====
section
/-! PROOFS. The clock call of the video chip: position commits (R388, R389) and the WSYNC transfer (R390); and the collision
latches, which neither it nor any register write but CXCLR clears (R381). -/

namespace Sys2Proof.Machine

/-- The lead of a position commit: 5 for a player, 4 for a missile or the ball (R389). -/
theorem lead_eq_ite (o : Obj) : lead o = if o = .p0 ∨ o = .p1 then 5 else 4 := by cases o <;> rfl

/-- Settles O50: what a clock call is, and each object's position by whether its strobe is armed. -/
theorem positionStrobesCommitAfterTheClock : Obligations.PositionStrobesCommitAfterTheClock := by
  unfold Obligations.PositionStrobesCommitAfterTheClock
  refine ⟨fun fvl n s => rfl, fun fvl n s o hhpos => ⟨fun armed => ?armed, fun unarmed => ?unarmed, ?cleared⟩⟩
  case armed => rw [videoClock_startPos, if_pos armed, ticks_hpos fvl _ hhpos, lead_eq_ite]
  case unarmed => rw [videoClock_startPos, unarmed, if_neg Bool.false_ne_true]
  case cleared => rw [videoClock_armed, PerObject.get_all]

/-- The WSYNC latch outlasts ticks that do not reach the end of the line, and no others (R374). -/
theorem ticks_wsyncLatch (fvl k : Nat) {s : Video} (hhpos : s.hpos < 228) :
    (ticks fvl k s).wsyncLatch = (s.wsyncLatch && decide (s.hpos + k < 228)) := by
  induction k generalizing s with
  | zero => rw [ticks_zero, Nat.add_zero, decide_eq_true hhpos, Bool.and_true]
  | succ k ih =>
    have pixel := tick_hpos fvl s
    have latch := tick_wsyncLatch fvl s
    by_cases wrap : s.hpos + 1 = 228
    · rw [if_pos wrap] at pixel latch
      rw [ticks_succ, ih (by omega), latch, decide_eq_false (by omega : ¬ s.hpos + (k + 1) < 228), Bool.false_and,
        Bool.and_false]
    · rw [if_neg wrap] at pixel latch
      rw [ticks_succ, ih (by omega), latch, pixel, Nat.add_right_comm, Nat.add_assoc]

/-- Settles O51: `waiting` is the latch after the ticks, which falls where they reach the end of the line. -/
theorem waitingIsTheLatchAfterTheClock : Obligations.WaitingIsTheLatchAfterTheClock := by
  unfold Obligations.WaitingIsTheLatchAfterTheClock
  exact fun fvl n s hhpos => ⟨ticks_wsyncLatch fvl (3 * n) hhpos, rfl⟩

/-! ### Collision latches -/

section
variable {k : Collisions → Bool} {s : Video}

/-- An update sets latches and clears none (R381). -/
theorem updateCollisions_sticky (hk : k ∈ Collisions.latches) (on : k s.cx = true) : k (updateCollisions s) = true := by
  have sticky : ∀ k ∈ Collisions.latches, k s.cx = true → k (updateCollisions s) = true := by
    simp +contextual [Collisions.latches, updateCollisions]
  exact sticky k hk on

theorem tick_cx_sticky (fvl : Nat) (hk : k ∈ Collisions.latches) (on : k s.cx = true) : k (tick fvl s).cx = true := by
  rw [tick_cx]
  split
  · exact updateCollisions_sticky hk on
  · exact on

theorem ticks_cx_sticky (fvl n : Nat) (hk : k ∈ Collisions.latches) (on : k s.cx = true) :
    k (ticks fvl n s).cx = true := by
  induction n generalizing s with
  | zero => exact on
  | succ n ih => exact ih (tick_cx_sticky fvl hk on)

/-- Of the registers only CXCLR writes the collision latches (R311, R335). -/
theorem writeReg_cx {q : WriteReg} (hq : q ≠ .cxclr) (w : Byte) (s : Video) : (writeReg q w s).cx = s.cx := by
  cases q with
  | vsync => simp only [writeReg, writeVsync]; split <;> rfl
  | grp p => simp only [writeReg, writeGrp]; split <;> rfl
  | enabl => simp only [writeReg, writeEnabl]; split <;> rfl
  | cxclr => exact absurd rfl hq
  | _ => rfl

theorem writeRegOf_ne_cxclr {r : BitVec 6} (h : r ≠ 0x2C) : writeRegOf r ≠ .cxclr := by
  revert r; decide

end

/-- Settles O48: a tick updates the latches in the active area, an update clears none, and no register but CXCLR writes
them. -/
theorem collisionLatchesAreSticky : Obligations.CollisionLatchesAreSticky := by
  unfold Obligations.CollisionLatchesAreSticky
  refine ⟨fun fvl s => ?update, fun k hk s on => ⟨fun fvl n => ticks_cx_sticky fvl (3 * n) hk on, fun r w hr => ?write⟩⟩
  case update =>
    rw [tick_cx, ← active_eq_decide]
    cases active fvl s
    case true => simp only [if_true, updateCollisions, Bool.true_and]
    case false => simp only [Bool.false_eq_true, if_false, Bool.false_and, Bool.or_false]
  case write => rwa [videoWrite, writeReg_cx (writeRegOf_ne_cxclr hr)]

end Sys2Proof.Machine
end

