-- ==== Sys2Proof/Proofs/Timer.lean ====
section
/-! PROOFS. The timer: its writes (R424, R426), its reads (R428) and its count (R427, R429). -/

namespace Sys2Proof.Machine

/-- A timer write keeps the byte and loads it times the divisor (R426). -/
theorem timerWrite_eq (k : Prescale) (w : Byte) (t : Io) : timerWrite k w t =
    { t with prescale := k, timerWritten := w, timerRaw := w.toNat * 2 ^ k.shift } := by
  rw [timerWrite, Nat.shiftLeft_eq]

/-- Only four numbers of the I/O chip take a write (R424). -/
theorem ioWrite_of_no_timer {r : BitVec 5} (h : r.toNat < 0x14 ∨ 0x17 < r.toNat) (w : Byte) (t : Io) :
    ioWrite r w t = t := by
  unfold ioWrite
  split
  case h_5 => rfl
  all_goals omega

/-- A bus write at an I/O address is the write of its register (R83, R420). -/
theorem busWrite_of_io {p : Addr} {r : BitVec 5} (h : target p = .io r) (w : Byte) (s : State) :
    busWrite p w s = { s with io := ioWrite r w s.io } := by simp only [busWrite, h]

/-- Settles O53: the four timer numbers are `timerWrite` with their prescale, the others keep the chip. -/
theorem timerWritesReloadTheCounter : Obligations.TimerWritesReloadTheCounter := by
  unfold Obligations.TimerWritesReloadTheCounter
  have reload {p : Addr} {r : BitVec 5} (k : Prescale) {w : Byte} {s : State} (h : target p = .io r)
      (hr : ioWrite r w s.io = timerWrite k w s.io) : busWrite p w s =
        { s with io := { s.io with prescale := k, timerWritten := w, timerRaw := w.toNat * 2 ^ k.shift } } := by
    rw [busWrite_of_io h, hr, timerWrite_eq]
  refine fun p w s => ⟨fun h => ?div1, fun h => reload .div8 h rfl, fun h => reload .div64 h rfl,
    fun h => reload .div1024 h rfl, fun r h no_timer => ?other⟩
  case div1 => exact (reload .div1 h rfl).trans (by rw [Prescale.shift, Nat.pow_zero, Nat.mul_one])
  case other => rw [busWrite_of_io h, ioWrite_of_no_timer no_timer]

/-- Settles O55: one call subtracts its cycles modulo the range, a call of none keeps the chip, and calls add up. -/
theorem timerCountsDownModuloItsRange : Obligations.TimerCountsDownModuloItsRange := by
  unfold Obligations.TimerCountsDownModuloItsRange
  refine ⟨fun n t h => ⟨?count, rfl⟩, fun n t h => ⟨ioClock_zero h, ?single⟩⟩
  case count =>
    rw [ioClock_timerRaw_eq_emod, Prescale.range_eq]
    push_cast
    rfl
  case single => rw [ioClock_ioClock, Nat.add_comm]

/-- A byte made from an integer does not see multiples of 256. -/
theorem ofInt_sub_mul_256 (a q : Int) : BitVec.ofInt 8 (a - 256 * q) = BitVec.ofInt 8 a :=
  BitVec.eq_of_toNat_eq (by rw [BitVec.toNat_ofInt, BitVec.toNat_ofInt]; omega)

/-- INTIM after a clock call is the counter less the cycles, divided by the prescale and rounded down (R428, R429). -/
theorem intim_ioClock (n : Nat) (t : Io) :
    (ioClock n t).intim = BitVec.ofInt 8 (((t.timerRaw : Int) - n) / 2 ^ t.prescale.shift) := by
  have nonzero : (2 : Int) ^ t.prescale.shift ≠ 0 := by positivity
  have raw : ((ioClock n t).timerRaw : Int) = (t.timerRaw : Int) - n -
      2 ^ t.prescale.shift * (256 * (((t.timerRaw : Int) - n) / t.prescale.range)) := by
    rw [ioClock_timerRaw_eq_emod, Int.emod_def, Prescale.range_eq]
    push_cast
    ring
  rw [Io.intim, ioClock_prescale, Nat.shiftRight_eq_div_pow, ← BitVec.ofInt_natCast, Int.natCast_ediv, raw,
    Nat.cast_pow, Nat.cast_ofNat, Int.sub_mul_ediv_left _ _ nonzero, ofInt_sub_mul_256]

/-- A multiple of the divisor less `m + 1` cycles, divided and rounded down (R428). -/
theorem mul_sub_succ_ediv (v m : Nat) {d : Int} (hd : 0 < d) :
    ((v : Int) * d - (m + 1 : Nat)) / d = (v : Int) - 1 - m / d := by
  calc ((v : Int) * d - (m + 1 : Nat)) / d
    _ = (Int.negSucc m + v * d) / d := by rw [Int.negSucc_eq, Nat.cast_add_one]; ring_nf
    _ = (v : Int) - 1 - m / d := by
      have below : Int.negSucc m / d = -(m / d + 1) := Int.negSucc_ediv m hd
      rw [Int.add_mul_ediv_right _ _ hd.ne', below]
      ring

/-- Settles O54: a write loads a multiple of the divisor, and the division rounds down from the first cycle on. -/
theorem timerReadAfterCycles : Obligations.TimerReadAfterCycles := by
  unfold Obligations.TimerReadAfterCycles
  refine fun k w t => ⟨?written, fun c first last => ?counted⟩
  case written =>
    rw [timerWrite_eq, Io.intim, Nat.shiftRight_eq_div_pow, Nat.mul_div_cancel _ (Nat.two_pow_pos _),
      BitVec.ofNat_toNat, BitVec.setWidth_eq]
  case counted =>
    obtain ⟨m, rfl⟩ : ∃ m, c = m + 1 := ⟨c - 1, by omega⟩
    have divided := mul_sub_succ_ediv w.toNat m (d := 2 ^ k.shift) (by positivity)
    rw [intim_ioClock, timerWrite_eq]
    rw [Nat.add_sub_cancel]
    push_cast at divided ⊢
    rw [divided]

end Sys2Proof.Machine
end
